-- ==== Sys2Proof/Word.lean ====
section
/-! DEFINITION. The widths of the SSCORE's values (spec/00_scope.md R5, R6; spec/10_state.md R21). Every register holds a
bit vector of its own fixed width; the arithmetic of the rules is done on Nat and Int and narrowed on writing (R122). -/

namespace Sys2Proof

/-- One byte of a buffer or of a 128-bit register (R7). -/
abbrev Byte := BitVec 8

/-- One word of the host port, a command word, ILEN and OLEN (R60, R90, R32, R33). -/
abbrev Word := BitVec 32

/-- A field element, curve parameter, coordinate or scalar magnitude: FIELD_BITS = 256 (R5). -/
abbrev Field := BitVec 256

/-- A 128-bit cipher register, sixteen bytes: KEY, STATE, IV, RK[r] (R28 to R31). -/
abbrev Block := BitVec 128

end Sys2Proof
end

