-- ==== Sys2Proof/Syntax.lean ====
section
/-! DEFINITION. The 21 commands of the SSCORE, one constructor per row of the opcode map (spec/30_encoding.md R96), and
what the host can do at its port (spec/20_memory.md R60 to R72, spec/70_reset_and_hazards.md R340). -/

namespace Sys2Proof

/-- The index of a field register R0..R7: an operand of class R (R91). -/
abbrev RIdx := Fin 8

/-- The index of a point register Q0..Q3: an operand of class Q (R91). -/
abbrev QIdx := Fin 4

/-- A command. The names `d`, `a`, `b` are those of the fields FD, FA, FB; `neg` is NEG (R92) and `rnd` is RND (R93). -/
inductive Instr where
  | nop
  | ecadd (d a b : QIdx)
  | ecdbl (d a : QIdx)
  | ecmul (d a : QIdx) (b : RIdx) (neg : Bool)
  | ecchk (a : QIdx)
  | ecdisc
  | modinv (d a : RIdx)
  | modsqrt (d a : RIdx)
  | aeskeyx (a : QIdx)
  | keyexp
  | aesenc
  | aesdec
  | subbytes
  | invsubbytes
  | shiftrows
  | invshiftrows
  | mixcolumns
  | invmixcolumns
  | addrk (rnd : BitVec 4)
  | cbcenc
  | cbcdec
deriving DecidableEq, Repr

/-- The width of a host access. The port takes only 32-bit ones (R61). -/
inductive Width where
  | bits8
  | bits16
  | bits32
  | bits64
deriving DecidableEq, Repr

/-- One action of the host: a read or a write at a host address, or asserting reset (spec/00_scope.md R13). Of a write of
another width than 32 bits the value plays no part, since the port answers it with a bus error (R61). -/
inductive HostAction where
  | read (addr : Nat) (width : Width)
  | write (addr : Nat) (width : Width) (value : Word)
  | reset
deriving DecidableEq, Repr

/-- One event of the total order of host accesses and core steps (spec/20_memory.md R76). -/
inductive Turn where
  | host (action : HostAction)
  | core
deriving DecidableEq, Repr

end Sys2Proof
end

