-- ==== Sys2Proof/WellFormed.lean ====
section
/-! DEFINITION. Which terms of Instr are commands of the spec. Register indices are bounded by their types (R91), so the
one check left is the range of the round index (spec/30_encoding.md R93). -/

namespace Sys2Proof

/-- The legal round indices of ADDRK: "Values 0 to 10 are legal" (R93). -/
def roundLegal (rnd : BitVec 4) : Bool := rnd.toNat ≤ 10

/-- Whether a term is a command of the spec (R91, R93). -/
def WellFormed (i : Instr) : Bool :=
  match i with
  | .addrk rnd => roundLegal rnd
  | .nop | .ecadd _ _ _ | .ecdbl _ _ | .ecmul _ _ _ _ | .ecchk _ | .ecdisc | .modinv _ _ | .modsqrt _ _ | .aeskeyx _
  | .keyexp | .aesenc | .aesdec | .subbytes | .invsubbytes | .shiftrows | .invshiftrows | .mixcolumns | .invmixcolumns
  | .cbcenc | .cbcdec => true

end Sys2Proof
end

