-- ==== Sys2Proof/Decode.lean ====
section
/-! DEFINITION. Decoding and encoding of the 32-bit command word (spec/30_encoding.md R90 to R98). The opcode map is the
table `Opcode.code`, `Opcode.mask`; decoding matches a word against the row its OPC field selects. -/

namespace Sys2Proof

/-- The rows of the opcode map (R96). -/
inductive Opcode where
  | nop | ecadd | ecdbl | ecmul | ecchk | ecdisc | modinv | modsqrt | aeskeyx | keyexp | aesenc | aesdec
  | subbytes | invsubbytes | shiftrows | invshiftrows | mixcolumns | invmixcolumns | addrk | cbcenc | cbcdec
deriving DecidableEq, Repr

/-- Every row, in the table's order (R96). -/
def Opcode.all : List Opcode :=
  [.nop, .ecadd, .ecdbl, .ecmul, .ecchk, .ecdisc, .modinv, .modsqrt, .aeskeyx, .keyexp, .aesenc, .aesdec,
   .subbytes, .invsubbytes, .shiftrows, .invshiftrows, .mixcolumns, .invmixcolumns, .addrk, .cbcenc, .cbcdec]

/-- The OPC column, which is also the row's `match` (R96: every other fixed bit is 0). -/
def Opcode.code : Opcode → Word
  | .nop => 0x00
  | .ecadd => 0x01
  | .ecdbl => 0x02
  | .ecmul => 0x03
  | .ecchk => 0x04
  | .ecdisc => 0x05
  | .modinv => 0x08
  | .modsqrt => 0x09
  | .aeskeyx => 0x10
  | .keyexp => 0x11
  | .aesenc => 0x12
  | .aesdec => 0x13
  | .subbytes => 0x14
  | .invsubbytes => 0x15
  | .shiftrows => 0x16
  | .invshiftrows => 0x17
  | .mixcolumns => 0x18
  | .invmixcolumns => 0x19
  | .addrk => 0x1A
  | .cbcenc => 0x20
  | .cbcdec => 0x21

/-- The mask column (R96). -/
def Opcode.mask : Opcode → Word
  | .ecadd => 0xFFFCCCFF
  | .ecdbl => 0xFFFFCCFF
  | .ecmul => 0xFFE8CCFF
  | .ecchk => 0xFFFFCFFF
  | .modinv => 0xFFFF88FF
  | .modsqrt => 0xFFFF88FF
  | .aeskeyx => 0xFFFFCFFF
  | .addrk => 0xF0FFFFFF
  | .nop | .ecdisc | .keyexp | .aesenc | .aesdec | .subbytes | .invsubbytes | .shiftrows | .invshiftrows | .mixcolumns
  | .invmixcolumns | .cbcenc | .cbcdec => 0xFFFFFFFF

/-- The OPC field, bits 7:0 (R90). -/
def opcField (w : Word) : BitVec 8 := w.extractLsb' 0 8

/-- The FD field, bits 11:8 (R90). -/
def fdField (w : Word) : BitVec 4 := w.extractLsb' 8 4

/-- The FA field, bits 15:12 (R90). -/
def faField (w : Word) : BitVec 4 := w.extractLsb' 12 4

/-- The FB field, bits 19:16 (R90). -/
def fbField (w : Word) : BitVec 4 := w.extractLsb' 16 4

/-- NEG, bit 20 (R90, R92). -/
def negField (w : Word) : Bool := w.getLsbD 20

/-- The RND field, bits 27:24 (R90, R93). -/
def rndField (w : Word) : BitVec 4 := w.extractLsb' 24 4

/-- A class Q operand: field bits 1:0 are the index 0..3 (R91). -/
def qIndex (f : BitVec 4) : QIdx := (f.extractLsb' 0 2).toFin

/-- A class R operand: field bits 2:0 are the index 0..7 (R91). -/
def rIndex (f : BitVec 4) : RIdx := (f.extractLsb' 0 3).toFin

/-- Why a word is ILLEGAL (R97). -/
inductive Illegal where
  /-- R97 (1): OPC is not in the opcode map. -/
  | unassignedOpcode
  /-- R97 (2) to (5): a bit is set that the row's mask fixes at 0: a reserved bit, a bit of an unused field, a
  class-range bit of an index, or NEG outside ECMUL. -/
  | fixedBitSet
  /-- R97 (6): ADDRK with RND from 11 to 15. -/
  | roundOutOfRange
deriving DecidableEq, Repr

/-- The row whose OPC equals the word's (R94, first line). -/
def opcodeOf (w : Word) : Option Opcode := Opcode.all.find? fun op => op.code.extractLsb' 0 8 == opcField w

/-- The command of a row, its operands read from the fields the row uses (R94, last line). -/
def Opcode.command (w : Word) : Opcode → Instr
  | .nop => .nop
  | .ecadd => .ecadd (qIndex (fdField w)) (qIndex (faField w)) (qIndex (fbField w))
  | .ecdbl => .ecdbl (qIndex (fdField w)) (qIndex (faField w))
  | .ecmul => .ecmul (qIndex (fdField w)) (qIndex (faField w)) (rIndex (fbField w)) (negField w)
  | .ecchk => .ecchk (qIndex (faField w))
  | .ecdisc => .ecdisc
  | .modinv => .modinv (rIndex (fdField w)) (rIndex (faField w))
  | .modsqrt => .modsqrt (rIndex (fdField w)) (rIndex (faField w))
  | .aeskeyx => .aeskeyx (qIndex (faField w))
  | .keyexp => .keyexp
  | .aesenc => .aesenc
  | .aesdec => .aesdec
  | .subbytes => .subbytes
  | .invsubbytes => .invsubbytes
  | .shiftrows => .shiftrows
  | .invshiftrows => .invshiftrows
  | .mixcolumns => .mixcolumns
  | .invmixcolumns => .invmixcolumns
  | .addrk => .addrk (rndField w)
  | .cbcenc => .cbcenc
  | .cbcdec => .cbcdec

/-- Decoding: "a total function from a 32-bit word to a command or to ILLEGAL" (R94), each ILLEGAL by its reason (R97). -/
def decode (w : Word) : Except Illegal Instr :=
  match opcodeOf w with
  | none => .error .unassignedOpcode
  | some op =>
    if w &&& op.mask = op.code then
      if op = .addrk ∧ ¬ roundLegal (rndField w) then .error .roundOutOfRange else .ok (op.command w)
    else .error .fixedBitSet

/-- The row of a command (R96). -/
def Instr.opcode : Instr → Opcode
  | .nop => .nop
  | .ecadd _ _ _ => .ecadd
  | .ecdbl _ _ => .ecdbl
  | .ecmul _ _ _ _ => .ecmul
  | .ecchk _ => .ecchk
  | .ecdisc => .ecdisc
  | .modinv _ _ => .modinv
  | .modsqrt _ _ => .modsqrt
  | .aeskeyx _ => .aeskeyx
  | .keyexp => .keyexp
  | .aesenc => .aesenc
  | .aesdec => .aesdec
  | .subbytes => .subbytes
  | .invsubbytes => .invsubbytes
  | .shiftrows => .shiftrows
  | .invshiftrows => .invshiftrows
  | .mixcolumns => .mixcolumns
  | .invmixcolumns => .invmixcolumns
  | .addrk _ => .addrk
  | .cbcenc => .cbcenc
  | .cbcdec => .cbcdec

/-- `enc = opc + d*2^8 + a*2^12 + b*2^16 + neg*2^20 + r*2^24`, unused fields 0 (R95). -/
def encodeFields (op : Opcode) (d a b : Nat) (neg : Bool) (r : Nat) : Word :=
  BitVec.ofNat 32 (op.code.toNat + d * 2 ^ 8 + a * 2 ^ 12 + b * 2 ^ 16 + neg.toNat * 2 ^ 20 + r * 2 ^ 24)

/-- The word of a command (R95). -/
def encode (i : Instr) : Word :=
  match i with
  | .ecadd d a b => encodeFields .ecadd d a b false 0
  | .ecdbl d a => encodeFields .ecdbl d a 0 false 0
  | .ecmul d a b neg => encodeFields .ecmul d a b neg 0
  | .ecchk a => encodeFields .ecchk 0 a 0 false 0
  | .modinv d a => encodeFields .modinv d a 0 false 0
  | .modsqrt d a => encodeFields .modsqrt d a 0 false 0
  | .aeskeyx a => encodeFields .aeskeyx 0 a 0 false 0
  | .addrk rnd => encodeFields .addrk 0 0 0 false rnd.toNat
  | .nop => encodeFields .nop 0 0 0 false 0
  | .ecdisc => encodeFields .ecdisc 0 0 0 false 0
  | .keyexp => encodeFields .keyexp 0 0 0 false 0
  | .aesenc => encodeFields .aesenc 0 0 0 false 0
  | .aesdec => encodeFields .aesdec 0 0 0 false 0
  | .subbytes => encodeFields .subbytes 0 0 0 false 0
  | .invsubbytes => encodeFields .invsubbytes 0 0 0 false 0
  | .shiftrows => encodeFields .shiftrows 0 0 0 false 0
  | .invshiftrows => encodeFields .invshiftrows 0 0 0 false 0
  | .mixcolumns => encodeFields .mixcolumns 0 0 0 false 0
  | .invmixcolumns => encodeFields .invmixcolumns 0 0 0 false 0
  | .cbcenc => encodeFields .cbcenc 0 0 0 false 0
  | .cbcdec => encodeFields .cbcdec 0 0 0 false 0

/-- A command word given as a number of `nbits` bits, every bit above them 0: the pending-command latch holds one 32-bit
word (R36), so there is no byte order to choose here. -/
def tableWord (nbits w : Nat) : Word := BitVec.ofNat 32 (w % 2 ^ nbits)

/-- The command the decoder reads from an opcode-table word of `nbits` bits; `none` where it refuses (R94). -/
def decodeTableWord (nbits w : Nat) : Option Instr := (decode (tableWord nbits w)).toOption

end Sys2Proof
end

