-- ==== Sys2Proof/Config.lean ====
section
/-! DEFINITION. What an implementation fixes (spec/00_scope.md R5) and the free values of the spec (R10, R40): the free
values are constants with no body, so nothing can be proved about which value they are. -/

namespace Sys2Proof

/-- The identification value of ID: "SS" and revision 7 (spec/10_state.md R46). -/
def Config.idValue : Word := 0x53530007

/-- The IV drawn by the `n`-th CBCENC that draws, when the environment has fixed none: `draw128()`, "a free input" on
which "the model puts no law" (R10, spec/92_eei_decisions.md D25; assumption log 1). -/
opaque Config.draw128 : Nat → Block

/-- The byte that the window offset `a` of IBUF or OBUF holds after the `n`-th reset when nothing has written it since:
"each byte may hold any value, and the model takes a draw per byte" (R40; assumption log 2). -/
opaque Config.resetByte : (n a : Nat) → Byte

/-- The implementation parameters of R5 that a model takes as arguments. Each admissible pair of values is one value of
this type and each value of this type is admissible, so no further check is needed (assumption log 5). -/
structure Params where
  /-- CORE_BASE in units of 64 KiB: CORE_BASE "must be 64 KiB aligned" (R5). -/
  coreSlot : Nat
  /-- BUF_BYTES is `32 + 16 * bufSlot`: "a multiple of 16 with 32 <= BUF_BYTES <= 16384" (R5). -/
  bufSlot : Fin 1023
deriving DecidableEq, Repr

/-- CORE_BASE, the host address of the window's offset 0 (R5, R60). -/
def Params.coreBase (c : Params) : Nat := 0x10000 * c.coreSlot

/-- BUF_BYTES, the byte size of IBUF and of OBUF (R5, R34, R35). -/
def Params.bufBytes (c : Params) : Nat := 32 + 16 * c.bufSlot.val

/-- The parameters of State.reset: BUF_BYTES = 4096, R5's default, and CORE_BASE = 0, a DESIGN CHOICE, unsafe
(assumption log 5). -/
def Params.default : Params := { coreSlot := 0, bufSlot := 254 }

end Sys2Proof
end

