-- ==== Sys2Proof/Machine/State.lean ====
section
/-! DEFINITION. The state of the SSCORE: "The architectural state is exactly the following. Nothing else is state"
(spec/10_state.md R21), then the model's own fields, which the spec calls inputs (R49) or parameters (spec/00_scope.md R5).
ID is a constant (R46) and IRQ a derived wire (R37), so neither is a field (assumption log 14). -/

namespace Sys2Proof.Machine

/-- What stops the machine: nothing. The SSCORE has no traps (spec/60_exceptions.md R309), a command that fails completes
with a code (R303), and a bad host access is answered by a bus error that changes nothing (spec/20_memory.md R61). So no
constructor stands here (assumption log 4). -/
inductive Fault where
deriving DecidableEq, Repr

/-- What the model gives no meaning to. -/
inductive Refusal where
  /-- Raised by an arm of `exec` for a command that has no meaning yet; safe. No arm of this model raises it. -/
  | notModelled (mnemonic : String)
deriving DecidableEq, Repr

/-- The result codes (spec/60_exceptions.md R300). The codes 8 to 15 are "reserved and never produced"
(spec/93_implementation_defined.md U2), so they have no constructor. -/
inductive ErrCode where
  | ok
  | illegal
  | modulus
  | range
  | noroot
  | nokey
  | length
  | inf
deriving DecidableEq, Repr

/-- A point register: `inf` (1 bit), `x`, `y` (256 bits each) (R26). With `inf` set it denotes the point at infinity,
whatever `x` and `y` hold (R27). -/
structure PointReg where
  inf : Bool
  x : Field
  y : Field
deriving DecidableEq, Repr

/-- CTRL: its one field; the reserved bits read 0 and ignore writes (R38). -/
structure Ctrl where
  ie : Bool
deriving DecidableEq, Repr

/-- STATUS: its nine fields; the reserved bits read 0 (R39, R41 to R47). -/
structure Status where
  busy : Bool
  done : Bool
  err : Bool
  errcode : ErrCode
  oncurve : Bool
  nonsing : Bool
  padv : Bool
  rkv : Bool
  busyerr : Bool
deriving DecidableEq, Repr

/-- The bytes of IBUF and OBUF written since the last reset, by window offset, offsets strictly rising (assumption
log 2). -/
abbrev Memory := List Host.Cell

/-- The host port's answer to the last access (spec/20_memory.md R61, R66, R67; assumption log 4). -/
inductive Response where
  /-- No access since the last reset. -/
  | none
  /-- A read's data (R66). -/
  | data (value : Word)
  /-- A write's "normal response", also when the write is ignored or dropped (R67, R70). -/
  | written
  /-- "A bus error response": no state change, no data (R61, R65). -/
  | busError
  /-- The address lies outside the window, so the access is not one of this block's (R60; assumption log 8). -/
  | notSelected
deriving DecidableEq, Repr

/-- The state: the architectural state of R21, then the model's own fields. -/
structure State where
  /-- P (R22). -/
  p : Field
  /-- A (R23). -/
  a : Field
  /-- B (R24). -/
  b : Field
  /-- R0..R7 (R25). -/
  r : Vector Field 8
  /-- Q0..Q3 (R26, R27). -/
  q : Vector PointReg 4
  /-- KEY (R28). -/
  key : Block
  /-- STATE (R29). -/
  block : Block
  /-- IV (R30). -/
  iv : Block
  /-- RK[0..10] (R31). -/
  rk : Vector Block 11
  /-- ILEN (R32). -/
  ilen : Word
  /-- OLEN (R33). -/
  olen : Word
  /-- IBUF and OBUF (R34, R35). -/
  mem : Memory
  /-- The pending-command latch (R36). An accepted issue writes it; completion leaves it (assumption log 17). -/
  latch : Word
  /-- CTRL (R38). -/
  ctrl : Ctrl
  /-- STATUS (R39). -/
  status : Status
  /-- The model's own: CORE_BASE and BUF_BYTES, which never change (spec/00_scope.md R5; assumption log 5). -/
  params : Params
  /-- The model's own: the events still to come, in their total order (spec/20_memory.md R76; assumption log 3). -/
  turns : List Turn
  /-- The model's own: what the host port answered last (assumption log 4). -/
  response : Response
  /-- The model's own: IV draws the environment has fixed, the next one first (R10, R49; assumption log 1). -/
  ivSupply : List Block
  /-- The model's own: how many draws CBCENC has taken (assumption log 1). -/
  drawCount : Nat
  /-- The model's own: how many resets the host has asserted (assumption log 2). -/
  resetCount : Nat
deriving DecidableEq, Repr

/-- A point register after reset: "inf = 1, x = 0, y = 0" (R26, R40). -/
def PointReg.reset : PointReg := { inf := true, x := 0, y := 0 }

/-- STATUS after reset: every field 0 (R40). -/
def Status.reset : Status :=
  { busy := false, done := false, err := false, errcode := .ok, oncurve := false, nonsing := false, padv := false,
    rkv := false, busyerr := false }

/-- The machine right after reset (R40): "Reset puts every piece of state in this table". No byte of IBUF or OBUF is
listed, so each reads as its free draw. No event is to come: the core "is idle and waits for an issue"
(spec/70_reset_and_hazards.md R341). -/
def State.reset : State :=
  { p := 0, a := 0, b := 0
    r := Vector.replicate 8 0
    q := Vector.replicate 4 PointReg.reset
    key := 0, block := 0, iv := 0
    rk := Vector.replicate 11 0
    ilen := 0, olen := 0
    mem := []
    latch := 0
    ctrl := { ie := false }
    status := Status.reset
    params := Params.default
    turns := []
    response := .none
    ivSupply := []
    drawCount := 0
    resetCount := 0 }

end Sys2Proof.Machine
end

