-- ==== Sys2Proof/Machine/Bytes.lean ====
section
/-! DEFINITION. Bytes and words of registers (spec/00_scope.md R7, R8; spec/20_memory.md R63, R64): byte and word 0 are
the least significant. -/

namespace Sys2Proof.Machine

/-- `byte(v, i) = v[8i+7:8i]` (R7). -/
def byteAt {n : Nat} (v : BitVec n) (i : Nat) : Byte := v.extractLsb' (8 * i) 8

/-- The integer `sum over i of byte_i * 256^i` (R64). -/
def packBytes : List Byte → Nat
  | [] => 0
  | x :: xs => x.toNat + 256 * packBytes xs

/-- The first `k` bytes of a register, byte 0 first. -/
def bytesOf {n : Nat} (k : Nat) (v : BitVec n) : List Byte := (List.range k).map (byteAt v)

/-- `blk(v)`: the 16-byte sequence of a 128-bit register (R8). -/
def blk (v : Block) : List Byte := bytesOf 16 v

/-- `reg(s)`: the 128-bit value whose byte `i` is `s[i]` (R8). -/
def reg (s : List Byte) : Block := BitVec.ofNat 128 (packBytes s)

/-- The 128-bit value whose byte `i` is `f i`. -/
def mkBlock (f : Nat → Byte) : Block := reg ((List.range 16).map f)

/-- The word at `off + 4*j` of a register at `off`: bits `[32j+31 : 32j]` (R63). -/
def getWord {n : Nat} (v : BitVec n) (j : Nat) : Word := v.extractLsb' (32 * j) 32

/-- A register whose word `j` is replaced (R63). -/
def setWord {n : Nat} (v : BitVec n) (j : Nat) (w : Word) : BitVec n :=
  (v &&& ~~~((0xFFFFFFFF#32).setWidth n <<< (32 * j))) ||| (w.setWidth n <<< (32 * j))

end Sys2Proof.Machine
end

