-- ==== Sys2Proof/Machine/Aes.lean ====
section
/-! DEFINITION. AES-128 on 16-byte blocks (spec/42_aes.md R190 to R201, R210). A block is a 128-bit register; its byte
`row + 4*col` is `s[row][col]` of the state (R191). A 4-byte word of the key schedule is a 32-bit vector, byte 0 lowest. -/

namespace Sys2Proof.Machine

/-- `xtime(u)` (R190). -/
def xtime (u : Byte) : Byte := (u <<< 1) ^^^ (if u.getLsbD 7 then 0x1B else 0)

/-- The sum of `xtime^i(v)` over the set bits `i` of `u` below `n`. -/
def gmulLoop : (n : Nat) → (u v : Byte) → Byte
  | 0, _, _ => 0
  | n + 1, u, v => (if u.getLsbD 0 then v else 0) ^^^ gmulLoop n (u >>> 1) (xtime v)

/-- `gmul(u, v)`: the polynomial product reduced modulo 0x11B (R190). -/
def gmul (u v : Byte) : Byte := gmulLoop 8 u v

/-- The S-box table: the row is the high hex digit, the column the low one (R192). -/
def sboxTable : List (List Byte) :=
  [[0x63, 0x7c, 0x77, 0x7b, 0xf2, 0x6b, 0x6f, 0xc5, 0x30, 0x01, 0x67, 0x2b, 0xfe, 0xd7, 0xab, 0x76],
   [0xca, 0x82, 0xc9, 0x7d, 0xfa, 0x59, 0x47, 0xf0, 0xad, 0xd4, 0xa2, 0xaf, 0x9c, 0xa4, 0x72, 0xc0],
   [0xb7, 0xfd, 0x93, 0x26, 0x36, 0x3f, 0xf7, 0xcc, 0x34, 0xa5, 0xe5, 0xf1, 0x71, 0xd8, 0x31, 0x15],
   [0x04, 0xc7, 0x23, 0xc3, 0x18, 0x96, 0x05, 0x9a, 0x07, 0x12, 0x80, 0xe2, 0xeb, 0x27, 0xb2, 0x75],
   [0x09, 0x83, 0x2c, 0x1a, 0x1b, 0x6e, 0x5a, 0xa0, 0x52, 0x3b, 0xd6, 0xb3, 0x29, 0xe3, 0x2f, 0x84],
   [0x53, 0xd1, 0x00, 0xed, 0x20, 0xfc, 0xb1, 0x5b, 0x6a, 0xcb, 0xbe, 0x39, 0x4a, 0x4c, 0x58, 0xcf],
   [0xd0, 0xef, 0xaa, 0xfb, 0x43, 0x4d, 0x33, 0x85, 0x45, 0xf9, 0x02, 0x7f, 0x50, 0x3c, 0x9f, 0xa8],
   [0x51, 0xa3, 0x40, 0x8f, 0x92, 0x9d, 0x38, 0xf5, 0xbc, 0xb6, 0xda, 0x21, 0x10, 0xff, 0xf3, 0xd2],
   [0xcd, 0x0c, 0x13, 0xec, 0x5f, 0x97, 0x44, 0x17, 0xc4, 0xa7, 0x7e, 0x3d, 0x64, 0x5d, 0x19, 0x73],
   [0x60, 0x81, 0x4f, 0xdc, 0x22, 0x2a, 0x90, 0x88, 0x46, 0xee, 0xb8, 0x14, 0xde, 0x5e, 0x0b, 0xdb],
   [0xe0, 0x32, 0x3a, 0x0a, 0x49, 0x06, 0x24, 0x5c, 0xc2, 0xd3, 0xac, 0x62, 0x91, 0x95, 0xe4, 0x79],
   [0xe7, 0xc8, 0x37, 0x6d, 0x8d, 0xd5, 0x4e, 0xa9, 0x6c, 0x56, 0xf4, 0xea, 0x65, 0x7a, 0xae, 0x08],
   [0xba, 0x78, 0x25, 0x2e, 0x1c, 0xa6, 0xb4, 0xc6, 0xe8, 0xdd, 0x74, 0x1f, 0x4b, 0xbd, 0x8b, 0x8a],
   [0x70, 0x3e, 0xb5, 0x66, 0x48, 0x03, 0xf6, 0x0e, 0x61, 0x35, 0x57, 0xb9, 0x86, 0xc1, 0x1d, 0x9e],
   [0xe1, 0xf8, 0x98, 0x11, 0x69, 0xd9, 0x8e, 0x94, 0x9b, 0x1e, 0x87, 0xe9, 0xce, 0x55, 0x28, 0xdf],
   [0x8c, 0xa1, 0x89, 0x0d, 0xbf, 0xe6, 0x42, 0x68, 0x41, 0x99, 0x2d, 0x0f, 0xb0, 0x54, 0xbb, 0x16]]

/-- The inverse S-box table, laid out as the S-box (R193). -/
def isboxTable : List (List Byte) :=
  [[0x52, 0x09, 0x6a, 0xd5, 0x30, 0x36, 0xa5, 0x38, 0xbf, 0x40, 0xa3, 0x9e, 0x81, 0xf3, 0xd7, 0xfb],
   [0x7c, 0xe3, 0x39, 0x82, 0x9b, 0x2f, 0xff, 0x87, 0x34, 0x8e, 0x43, 0x44, 0xc4, 0xde, 0xe9, 0xcb],
   [0x54, 0x7b, 0x94, 0x32, 0xa6, 0xc2, 0x23, 0x3d, 0xee, 0x4c, 0x95, 0x0b, 0x42, 0xfa, 0xc3, 0x4e],
   [0x08, 0x2e, 0xa1, 0x66, 0x28, 0xd9, 0x24, 0xb2, 0x76, 0x5b, 0xa2, 0x49, 0x6d, 0x8b, 0xd1, 0x25],
   [0x72, 0xf8, 0xf6, 0x64, 0x86, 0x68, 0x98, 0x16, 0xd4, 0xa4, 0x5c, 0xcc, 0x5d, 0x65, 0xb6, 0x92],
   [0x6c, 0x70, 0x48, 0x50, 0xfd, 0xed, 0xb9, 0xda, 0x5e, 0x15, 0x46, 0x57, 0xa7, 0x8d, 0x9d, 0x84],
   [0x90, 0xd8, 0xab, 0x00, 0x8c, 0xbc, 0xd3, 0x0a, 0xf7, 0xe4, 0x58, 0x05, 0xb8, 0xb3, 0x45, 0x06],
   [0xd0, 0x2c, 0x1e, 0x8f, 0xca, 0x3f, 0x0f, 0x02, 0xc1, 0xaf, 0xbd, 0x03, 0x01, 0x13, 0x8a, 0x6b],
   [0x3a, 0x91, 0x11, 0x41, 0x4f, 0x67, 0xdc, 0xea, 0x97, 0xf2, 0xcf, 0xce, 0xf0, 0xb4, 0xe6, 0x73],
   [0x96, 0xac, 0x74, 0x22, 0xe7, 0xad, 0x35, 0x85, 0xe2, 0xf9, 0x37, 0xe8, 0x1c, 0x75, 0xdf, 0x6e],
   [0x47, 0xf1, 0x1a, 0x71, 0x1d, 0x29, 0xc5, 0x89, 0x6f, 0xb7, 0x62, 0x0e, 0xaa, 0x18, 0xbe, 0x1b],
   [0xfc, 0x56, 0x3e, 0x4b, 0xc6, 0xd2, 0x79, 0x20, 0x9a, 0xdb, 0xc0, 0xfe, 0x78, 0xcd, 0x5a, 0xf4],
   [0x1f, 0xdd, 0xa8, 0x33, 0x88, 0x07, 0xc7, 0x31, 0xb1, 0x12, 0x10, 0x59, 0x27, 0x80, 0xec, 0x5f],
   [0x60, 0x51, 0x7f, 0xa9, 0x19, 0xb5, 0x4a, 0x0d, 0x2d, 0xe5, 0x7a, 0x9f, 0x93, 0xc9, 0x9c, 0xef],
   [0xa0, 0xe0, 0x3b, 0x4d, 0xae, 0x2a, 0xf5, 0xb0, 0xc8, 0xeb, 0xbb, 0x3c, 0x83, 0x53, 0x99, 0x61],
   [0x17, 0x2b, 0x04, 0x7e, 0xba, 0x77, 0xd6, 0x26, 0xe1, 0x69, 0x14, 0x63, 0x55, 0x21, 0x0c, 0x7d]]

/-- The entry of a table of R192 or R193 for `u`: its row is the high hex digit of `u`, its column the low one. -/
def tableEntry (table : List (List Byte)) (u : Byte) : Byte := (table.getD (u.toNat / 16) []).getD (u.toNat % 16) 0

/-- `SBOX[u]` (R192). -/
def sbox (u : Byte) : Byte := tableEntry sboxTable u

/-- `ISBOX[u]` (R193). -/
def isbox (u : Byte) : Byte := tableEntry isboxTable u

/-! ### Round transforms -/

/-- `SubBytes` (R194). -/
def subBytes (s : Block) : Block := mkBlock fun i => sbox (byteAt s i)

/-- `InvSubBytes` (R194). -/
def invSubBytes (s : Block) : Block := mkBlock fun i => isbox (byteAt s i)

/-- `s[row][col]`, byte `row + 4*col` of the block (R191). -/
def cell (s : Block) (row col : Nat) : Byte := byteAt s (row + 4 * col)

/-- The block whose `s[row][col]` is `f row col` (R191). -/
def mkState (f : Nat → Nat → Byte) : Block := mkBlock fun i => f (i % 4) (i / 4)

/-- `ShiftRows`: `s'[row][col] = s[row][(col + row) mod 4]` (R195). -/
def shiftRows (s : Block) : Block := mkState fun row col => cell s row ((col + row) % 4)

/-- `InvShiftRows`: `s'[row][col] = s[row][(col - row) mod 4]` (R195). -/
def invShiftRows (s : Block) : Block := mkState fun row col => cell s row ((col + 4 - row) % 4)

/-- The matrix of `MixColumns`, by rows (R196). -/
def mixMatrix : List (List Byte) := [[2, 3, 1, 1], [1, 2, 3, 1], [1, 1, 2, 3], [3, 1, 1, 2]]

/-- The matrix of `InvMixColumns`, by rows (R196). -/
def invMixMatrix : List (List Byte) :=
  [[0x0e, 0x0b, 0x0d, 0x09], [0x09, 0x0e, 0x0b, 0x0d], [0x0d, 0x09, 0x0e, 0x0b], [0x0b, 0x0d, 0x09, 0x0e]]

/-- Each column of the state multiplied by a 4x4 matrix over GF(2^8) (R196). -/
def mulColumns (matrix : List (List Byte)) (s : Block) : Block :=
  mkState fun row col =>
    let coeff := fun j => (matrix.getD row []).getD j 0
    gmul (coeff 0) (cell s 0 col) ^^^ gmul (coeff 1) (cell s 1 col) ^^^ gmul (coeff 2) (cell s 2 col)
      ^^^ gmul (coeff 3) (cell s 3 col)

/-- `MixColumns` (R196). -/
def mixColumns (s : Block) : Block := mulColumns mixMatrix s

/-- `InvMixColumns` (R196). -/
def invMixColumns (s : Block) : Block := mulColumns invMixMatrix s

/-- `AddRoundKey(s, k)[i] = s[i] XOR k[i]` (R197). -/
def addRoundKey (s k : Block) : Block := s ^^^ k

/-! ### Key schedule -/

/-- A 4-byte word from its bytes. -/
def mkQuad (x0 x1 x2 x3 : Byte) : Word := BitVec.ofNat 32 (packBytes [x0, x1, x2, x3])

/-- `RotWord((a0, a1, a2, a3)) = (a1, a2, a3, a0)` (R198). -/
def rotWord (w : Word) : Word := mkQuad (byteAt w 1) (byteAt w 2) (byteAt w 3) (byteAt w 0)

/-- `SubWord` (R198). -/
def subWord (w : Word) : Word :=
  mkQuad (sbox (byteAt w 0)) (sbox (byteAt w 1)) (sbox (byteAt w 2)) (sbox (byteAt w 3))

/-- `Rcon[1..10]` (R199). -/
def rconTable : List Byte := [0x01, 0x02, 0x04, 0x08, 0x10, 0x20, 0x40, 0x80, 0x1B, 0x36]

/-- `Rcon[i]` for `i` from 1 to 10 (R199). -/
def rcon (i : Nat) : Byte := rconTable.getD (i - 1) 0

/-- The `t` that `w[i]` takes from `w[i-1]` (R198). -/
def scheduleMix (i : Nat) (w : Word) : Word :=
  if i % 4 = 0 then subWord (rotWord w) ^^^ mkQuad (rcon (i / 4)) 0 0 0 else w

/-- `w[0..i)` with the newest word first, for `i = 4 + n` (R198): `w[i] <- w[i-4] XOR t`. -/
def expandWords (k : Block) : (n : Nat) → List Word
  | 0 => [getWord k 3, getWord k 2, getWord k 1, getWord k 0]
  | n + 1 =>
    match expandWords k n with
    | w1 :: w2 :: w3 :: w4 :: older => (w4 ^^^ scheduleMix (n + 4) w1) :: w1 :: w2 :: w3 :: w4 :: older
    | short => short

/-- The 44 words `w[0..44)` (R198). -/
def keyWords (k : Block) : List Word := (expandWords k 40).reverse

/-- `KeyExpansion(k)`: round key `r` has byte `4j + m` equal to `w[4r + j][m]` (R198). -/
def keyExpansion (k : Block) : Vector Block 11 :=
  let words := keyWords k
  Vector.ofFn fun r : Fin 11 => mkBlock fun i => byteAt (words.getD (4 * r.val + i / 4) 0) (i % 4)

/-! ### Cipher and inverse cipher -/

/-- The rounds 1 to 9 (R200). -/
def middleRounds : List (Fin 11) := [1, 2, 3, 4, 5, 6, 7, 8, 9]

/-- `AES_Enc(in, K)` (R200). -/
def aesEnc (rk : Vector Block 11) (x : Block) : Block :=
  let s := middleRounds.foldl (fun s r => addRoundKey (mixColumns (shiftRows (subBytes s))) rk[r])
    (addRoundKey x rk[0])
  addRoundKey (shiftRows (subBytes s)) rk[10]

/-- `AES_Dec(in, K)` (R201). -/
def aesDec (rk : Vector Block 11) (x : Block) : Block :=
  let s := middleRounds.reverse.foldl (fun s r => invMixColumns (addRoundKey (invSubBytes (invShiftRows s)) rk[r]))
    (addRoundKey x rk[10])
  addRoundKey (invSubBytes (invShiftRows s)) rk[0]

/-- `keyred(x) = x mod 2^128` (R210). -/
def keyred (x : Field) : Block := BitVec.ofNat 128 (x.toNat % 2 ^ 128)

end Sys2Proof.Machine
end

