-- ==== Sys2Proof/Machine/Cbc.lean ====
section
/-! DEFINITION. Padding, chaining and length rules of CBC mode on byte sequences (spec/43_cbc.md R240 to R245). -/

namespace Sys2Proof.Machine

/-- `pad(m)`: `n = 16 - (L mod 16)` bytes of value `n` appended (R240). -/
def pad (m : List Byte) : List Byte :=
  m ++ List.replicate (16 - m.length % 16) (BitVec.ofNat 8 (16 - m.length % 16))

/-- `unpad(d)`: the sequence with its padding stripped and 1, or the whole sequence and 0 (R241). -/
def unpad (d : List Byte) : List Byte × Bool :=
  let n := (d.getD (d.length - 1) 0).toNat
  if 1 ≤ n ∧ n ≤ 16 ∧ (d.drop (d.length - n)).all (fun x => x.toNat == n) then (d.take (d.length - n), true)
  else (d, false)

/-- The first `n` 16-byte blocks of a byte sequence. -/
def toBlocks : (n : Nat) → List Byte → List Block
  | 0, _ => []
  | n + 1, s => reg (s.take 16) :: toBlocks n (s.drop 16)

/-- The bytes of blocks, in order. -/
def ofBlocks (bs : List Block) : List Byte := bs.flatMap blk

/-- The ciphertext blocks: `c_i <- AES_Enc(p_i XOR prev, K)` (R242). -/
def cbcEncBlocks (rk : Vector Block 11) : (prev : Block) → List Block → List Block
  | _, [] => []
  | prev, x :: xs =>
    let c := aesEnc rk (x ^^^ prev)
    c :: cbcEncBlocks rk c xs

/-- The plaintext blocks: `p_i <- AES_Dec(c_i, K) XOR prev`, and `prev` becomes "the original ciphertext" (R243). -/
def cbcDecBlocks (rk : Vector Block 11) : (prev : Block) → List Block → List Block
  | _, [] => []
  | prev, c :: cs => (aesDec rk c ^^^ prev) :: cbcDecBlocks rk c cs

/-- `cbc_enc(mp, iv)` (R242). -/
def cbcEnc (rk : Vector Block 11) (mp : List Byte) (iv : Block) : List Byte :=
  blk iv ++ ofBlocks (cbcEncBlocks rk iv (toBlocks (mp.length / 16) mp))

/-- `cbc_dec(pl)` (R243). -/
def cbcDec (rk : Vector Block 11) (pl : List Byte) : List Byte :=
  ofBlocks (cbcDecBlocks rk (reg (pl.take 16)) (toBlocks (pl.length / 16 - 1) (pl.drop 16)))

/-- CBCENC's length check fails (R244). -/
def encLengthBad (bufBytes len : Nat) : Bool := decide (bufBytes < len) || decide (bufBytes < 16 * (len / 16 + 2))

/-- CBCDEC's length check fails (R245). -/
def decLengthBad (bufBytes len : Nat) : Bool := len % 16 != 0 || decide (len < 32) || decide (bufBytes < len)

end Sys2Proof.Machine
end

