-- ==== Sys2Proof/Machine/ModArith.lean ====
section
/-! DEFINITION. Modular arithmetic over unbounded integers (spec/40_modular.md R120 to R128): every value is a Nat or an
Int and reduced `mod P` (R122). -/

namespace Sys2Proof.Machine

/-- `u mod P` of an integer, "the least non-negative remainder, for every integer, negative included" (R6, R122). -/
def intMod (u : Int) (P : Nat) : Nat := (u % (P : Int)).toNat

/-- Square-and-multiply on the exponent's binary digits; `fuel` bounds their number. -/
def modexpLoop : (fuel b e P : Nat) → Nat
  | 0, _, _, P => 1 % P
  | fuel + 1, b, e, P =>
    if e = 0 then 1 % P
    else if e % 2 = 1 then (b * modexpLoop fuel (b * b % P) (e / 2) P) % P
    else modexpLoop fuel (b * b % P) (e / 2) P

/-- `modexp(b, e, P)`, `b^e mod P` (R123). "The result does not depend on the method" (assumption log 12). -/
def modexp (b e P : Nat) : Nat := modexpLoop (e.log2 + 1) b e P

/-- The modular inverse by Fermat's little theorem: `inv(d) = modexp(d mod P, P - 2, P)` (R124). -/
def modinv (d P : Nat) : Nat := modexp (d % P) (P - 2) P

/-- The Legendre symbol `modexp(n, (P - 1) / 2, P)` (R125). -/
def legendre (n P : Nat) : Nat := modexp n ((P - 1) / 2) P

/-- The least integer in `[k, k + count)` with the property. -/
def leastFrom (prop : Nat → Bool) : (count k : Nat) → Option Nat
  | 0, _ => none
  | count + 1, k => if prop k then some k else leastFrom prop count (k + 1)

/-- `(q, s)` with `n = q * 2^s` and `q` odd, for `n > 0`; `fuel` bounds `s`. -/
def oddPart : (fuel n : Nat) → Nat × Nat
  | 0, n => (n, 0)
  | fuel + 1, n =>
    if n % 2 = 0 then
      match oddPart fuel (n / 2) with
      | (q, s) => (q, s + 1)
    else (n, 0)

/-- The `while t != 1` loop of R126, returning the candidate root. Each pass makes `m` smaller and `m >= 1`, so with
`fuel = m` the first case is never reached (assumption log 12). -/
def tsLoop : (fuel m c t r P : Nat) → Option Nat
  | 0, _, _, _, _, _ => none
  | fuel + 1, m, c, t, r, P =>
    if t = 1 then some r
    else
      match leastFrom (fun i => modexp t (2 ^ i) P == 1) (m - 1) 1 with
      | none => none
      | some i =>
        let b := modexp c (2 ^ (m - i - 1)) P
        let c' := (b * b) % P
        tsLoop fuel i c' ((t * c') % P) ((r * b) % P) P

/-- The candidate root of `n` for `P mod 4 = 1`: the general path of R126, with `z` the least non-residue from 2 upward. -/
def tsGeneral (n P : Nat) : Option Nat :=
  let (q, s) := oddPart ((P - 1).log2 + 1) (P - 1)
  match leastFrom (fun z => legendre z P == P - 1) (P - 2) 2 with
  | none => none
  | some z => tsLoop s s (modexp z q P) (modexp n q P) (modexp n ((q + 1) / 2) P) P

/-- `tsqrt(n)` of R126: `some r` is ROOT(r), `none` is NOROOT. The last line is the final check of R127. -/
def tsqrt (n P : Nat) : Option Nat :=
  if n = 0 then some 0
  else if legendre n P ≠ 1 then none
  else
    match if P % 4 = 3 then some (modexp n ((P + 1) / 4) P) else tsGeneral n P with
    | none => none
    | some r => if (r * r) % P = n then some r else none

end Sys2Proof.Machine
end

