-- ==== Sys2Proof/Machine/Curve.lean ====
section
/-! DEFINITION. Point arithmetic on the short-Weierstrass curve (spec/41_ecc.md R150 to R154, R160). The formulas are applied
to whatever they are given: no curve check, no primality (R159, spec/40_modular.md R120). -/

namespace Sys2Proof.Machine

/-- A point value: "either `INF` or a pair `(x, y)`" (R150). -/
inductive Point where
  | inf
  | fin (x y : Nat)
deriving DecidableEq, Repr

/-- The point with slope `lam` through the two operands' x-coordinates: `x3` and `y3` of R151. -/
def chordPoint (P lam x1 y1 x2 : Nat) : Point :=
  let x3 := intMod ((lam : Int) * lam - x1 - x2) P
  .fin x3 (intMod ((lam : Int) * (x1 - x3) - y1) P)

/-- The slope of the doubling branch: `((3 * x1 * x1 + A) mod P) * inv((2 * y1) mod P) mod P` (R151). -/
def tangentSlope (P A x1 y1 : Nat) : Nat := ((3 * x1 * x1 + A) % P * modinv ((2 * y1) % P) P) % P

/-- The slope of the general branch: `((y2 - y1) mod P) * inv((x2 - x1) mod P) mod P` (R151). -/
def chordSlope (P x1 y1 x2 y2 : Nat) : Nat :=
  (intMod ((y2 : Int) - y1) P * modinv (intMod ((x2 : Int) - x1) P) P) % P

/-- `padd(P1, P2)` (R151), its cases in the document's order. -/
def padd (P A : Nat) : Point → Point → Point
  | .inf, p2 => p2
  | p1, .inf => p1
  | .fin x1 y1, .fin x2 y2 =>
    if x1 = x2 ∧ y1 = (P - y2) % P then .inf
    else if x1 = x2 ∧ y1 = y2 then
      if y1 = 0 then .inf else chordPoint P (tangentSlope P A x1 y1) x1 y1 x2
    else chordPoint P (chordSlope P x1 y1 x2 y2) x1 y1 x2

/-- `pneg` (R153). -/
def pneg (P : Nat) : Point → Point
  | .inf => .inf
  | .fin x y => .fin x ((P - y) % P)

/-- The double-and-add loop of R154 over the low `bits` bits of `k`, least significant first. -/
def pmulLoop (P A : Nat) : (bits k : Nat) → (result addend : Point) → Point
  | 0, _, result, _ => result
  | bits + 1, k, result, addend =>
    pmulLoop P A bits (k / 2) (if k % 2 = 1 then padd P A result addend else result) (padd P A addend addend)

/-- `bitlen(k)`: the number of binary digits of `k`, 0 for 0 (R6). -/
def bitlen (k : Nat) : Nat := if k = 0 then 0 else k.log2 + 1

/-- `pmul(k, neg, Pt)` (R154). -/
def pmul (P A k : Nat) (neg : Bool) (pt : Point) : Point :=
  let pt' := if neg then pneg P pt else pt
  if k = 0 ∨ pt' = .inf then .inf else pmulLoop P A (bitlen k) k .inf pt'

/-- `oncurve(Pt)` (R160). -/
def onCurve (P A B : Nat) : Point → Bool
  | .inf => true
  | .fin x y => (y * y) % P == (x * x * x + A * x + B) % P

/-- `nonsing()` (R160). -/
def nonSingular (P A B : Nat) : Bool := (4 * A * A * A + 27 * B * B) % P != 0

end Sys2Proof.Machine
end

