-- ==== Sys2Proof/Machine/Operands.lean ====
section
/-! DEFINITION. The operand forms: reading and writing a point register as a point value (spec/41_ecc.md R150, spec/10_state.md R27), the
checks every curve and modular command makes before it (spec/40_modular.md R120, R121), and the round-key operand. -/

namespace Sys2Proof.Machine

/-- A point register read as a point value (R150, R27). -/
def PointReg.toPoint (pr : PointReg) : Point := if pr.inf then .inf else .fin pr.x.toNat pr.y.toNat

/-- A point value as a point register holds it: "`inf = 1, x = 0, y = 0` for `INF`, else `inf = 0` and the coordinates"
(R150). -/
def Point.toReg : Point → PointReg
  | .inf => { inf := true, x := 0, y := 0 }
  | .fin x y => { inf := false, x := BitVec.ofNat 256 x, y := BitVec.ofNat 256 y }

/-- The coordinates of a point operand that the range check covers: none when `inf = 1` (R121). -/
def PointReg.checked (pr : PointReg) : List Field := if pr.inf then [] else [pr.x, pr.y]

/-- The modulus check: E_MODULUS if `P < 3` or `P mod 2 = 0` (R120). -/
def modulusBad (P : Nat) : Bool := decide (P < 3) || P % 2 == 0

/-- The modulus check, then the range check of the field operands a command reads (R120, R121): the code of the first one
that fails, or `none`. -/
def State.fieldError (s : State) (operands : List Field) : Option ErrCode :=
  if modulusBad s.p.toNat then some .modulus
  else if operands.any fun v => decide (s.p.toNat ≤ v.toNat) then some .range
  else none

/-- Runs the rest of a command after its checks (spec/60_exceptions.md R302). -/
def afterCheck (failed : Option ErrCode) (rest : Except ErrCode State) : Except ErrCode State :=
  match failed with
  | some code => .error code
  | none => rest

/-- The check of RKV: E_NOKEY when it is 0 (spec/10_state.md R45). -/
def State.keyError (s : State) : Option ErrCode := if s.status.rkv then none else some .nokey

/-- RK[rnd] of ADDRK; there is none for `rnd` above 10 (R31, spec/30_encoding.md R93). -/
def State.roundKey (s : State) (rnd : BitVec 4) : Option Block := s.rk[rnd.toNat]?

end Sys2Proof.Machine
end

