-- ==== Sys2Proof/Machine/Flags.lean ====
section
/-! DEFINITION. The fields of STATUS and CTRL as the host sees them, and every way they change: completion, issue, W1C and
a dropped write (spec/10_state.md R37 to R48; spec/60_exceptions.md R300, R305, R306). The SSCORE has no other condition
bits (R50). -/

namespace Sys2Proof.Machine

/-- The 4-bit ERRCODE of a result (R300). -/
def ErrCode.toBits : ErrCode → BitVec 4
  | .ok => 0
  | .illegal => 1
  | .modulus => 2
  | .range => 3
  | .noroot => 4
  | .nokey => 5
  | .length => 6
  | .inf => 7

/-- A word with the one bit `i`, if `on`. -/
def flagBit (i : Nat) (on : Bool) : Word := if on then 1#32 <<< i else 0

/-- The word the host reads at STATUS (R39); reserved bits read 0 (R48). -/
def Status.toWord (st : Status) : Word :=
  flagBit 0 st.busy ||| flagBit 1 st.done ||| flagBit 2 st.err ||| (st.errcode.toBits.setWidth 32 <<< 4)
    ||| flagBit 8 st.oncurve ||| flagBit 9 st.nonsing ||| flagBit 10 st.padv ||| flagBit 11 st.rkv
    ||| flagBit 16 st.busyerr

/-- The word the host reads at CTRL (R38). -/
def Ctrl.toWord (c : Ctrl) : Word := flagBit 0 c.ie

/-- A host write of CTRL: IE is bit 0, the reserved bits ignore the write (R38, R48). -/
def Ctrl.ofWord (v : Word) : Ctrl := { ie := v.getLsbD 0 }

/-- The completion fields: "ERRCODE <- code, ERR <- (code != 0), BUSY <- 0, DONE <- 1" (R306). -/
def Status.complete (code : ErrCode) (st : Status) : Status :=
  { st with errcode := code, err := code != .ok, busy := false, done := true }

/-- An accepted issue: "BUSY <- 1, DONE <- 0" (R305). ERRCODE is unchanged (R43). -/
def Status.issue (st : Status) : Status := { st with busy := true, done := false }

/-- A host write of STATUS: 1 in bit 1 clears DONE, 1 in bit 16 clears BUSYERR, the rest is ignored (R39, R68). -/
def Status.writeOneToClear (v : Word) (st : Status) : Status :=
  { st with done := st.done && !v.getLsbD 1, busyerr := st.busyerr && !v.getLsbD 16 }

/-- A dropped host write sets BUSYERR (R47, R70). -/
def Status.dropWrite (st : Status) : Status := { st with busyerr := true }

/-- IRQ: "IRQ = CTRL.IE AND STATUS.DONE" (R37, R307). -/
def State.irq (s : State) : Bool := s.ctrl.ie && s.status.done

end Sys2Proof.Machine
end

