-- ==== Sys2Proof/Machine/Ops.lean ====
section
/-! DEFINITION. The named operations over memory, registers and the completion of a command. Reporting an error is ONE
operation, `State.finish`: the SSCORE has no trap entry and no return (spec/60_exceptions.md R309, R310), and an error's
"entire effect is rule R306's STATUS update". -/

namespace Sys2Proof.Machine

/-! ### Memory: the bytes of IBUF and OBUF -/

/-- The byte written last at offset `addr` since reset; `none` if no write has reached it. This is what an unlisted
address reads as (assumption log 2). -/
def Memory.lookup : Memory → Nat → Option Byte
  | [], _ => none
  | (k, v) :: m, addr => if k = addr then some v else Memory.lookup m addr

/-- Write one byte, keeping the offsets strictly rising. -/
def Memory.write : Memory → Nat → Byte → Memory
  | [], addr, v => [(addr, v)]
  | (k, w) :: m, addr, v =>
    if addr < k then (addr, v) :: (k, w) :: m
    else if addr = k then (addr, v) :: m
    else (k, w) :: Memory.write m addr v

/-- Write a byte sequence from `addr` on (spec/00_scope.md R8, `MemWrite`). -/
def Memory.writeBytes : Memory → Nat → List Byte → Memory
  | m, _, [] => m
  | m, addr, v :: vs => Memory.writeBytes (Memory.write m addr v) (addr + 1) vs

/-- The canonical form: offsets strictly rising. An unlisted offset has no written byte, so no entry can equal what it
reads as, and equal contents are equal lists (assumption log 2). -/
def Memory.wf : Memory → Bool
  | [] => true
  | [_] => true
  | (k, _) :: (l, w) :: m => decide (k < l) && Memory.wf ((l, w) :: m)

/-- The window offset of IBUF (spec/20_memory.md R62). -/
def ibufBase : Nat := 0x4000

/-- The window offset of OBUF (R62). -/
def obufBase : Nat := 0x8000

/-- BUF_BYTES of this machine (R5). -/
def State.bufBytes (s : State) : Nat := s.params.bufBytes

/-- One byte of IBUF or OBUF, by window offset: the byte written last, or the free draw of the last reset (R40; assumption
log 2). -/
def State.byteAt (s : State) (addr : Nat) : Byte :=
  (Memory.lookup s.mem addr).getD (Config.resetByte s.resetCount addr)

/-- `n` bytes from the window offset `addr` on (R8, `MemRead`). -/
def State.readBytes (s : State) (addr n : Nat) : List Byte := (List.range n).map fun i => s.byteAt (addr + i)

/-- `n` bytes written from the window offset `addr` on (R8, `MemWrite`). -/
def State.writeBytes (addr : Nat) (bs : List Byte) (s : State) : State :=
  { s with mem := Memory.writeBytes s.mem addr bs }

/-! ### Registers -/

/-- `R[i] <- v` (R8, R25). -/
def State.writeR (i : RIdx) (v : Field) (s : State) : State := { s with r := s.r.set i v }

/-- `Q[j] <- v` (R8, R26). -/
def State.writeQ (j : QIdx) (v : PointReg) (s : State) : State := { s with q := s.q.set j v }

/-- STATE <- v (R29). -/
def State.writeBlock (v : Block) (s : State) : State := { s with block := v }

/-- KEY <- v, which clears RKV: a host write and AESKEYX both do (R45, R352). -/
def State.writeKey (v : Block) (s : State) : State :=
  { s with key := v, status := { s.status with rkv := false } }

/-- RK[0..10] <- the schedule, which sets RKV (R31, R45). -/
def State.writeSchedule (v : Vector Block 11) (s : State) : State :=
  { s with rk := v, status := { s.status with rkv := true } }

/-! ### The IV draw -/

/-- `draw128()` of the next CBCENC: the draw the environment has fixed, or the free value (R10; assumption log 1). -/
def State.nextDraw (s : State) : Block :=
  match s.ivSupply with
  | v :: _ => v
  | [] => Config.draw128 s.drawCount

/-- The draw is consumed; IV holds it (R30, R250). -/
def State.takeDraw (s : State) : State :=
  { s with iv := s.nextDraw, ivSupply := s.ivSupply.tail, drawCount := s.drawCount + 1 }

/-! ### Completion -/

/-- The commit of R306 with a result code: STATUS's completion fields and nothing else. The latch keeps its word: R21 names
completion among its writers, but no rule gives a value written (DESIGN CHOICE, assumption log 17). -/
def State.complete (code : ErrCode) (s : State) : State := { s with status := s.status.complete code }

/-- The completion step's commit (R306): with an error, "writes = {}" (R303) and only the completion fields of the state
before the command change; without one, all of the command's writes and ERRCODE = 0. -/
def State.finish (s : State) (result : Except ErrCode State) : Host.Outcome State Fault Refusal :=
  match result with
  | .error code => .next (s.complete code)
  | .ok t => .next (t.complete .ok)

end Sys2Proof.Machine
end

