-- ==== Sys2Proof/Machine/CbcMode.lean ====
section
/-! DEFINITION. The CBC commands (spec/43_cbc.md R250, R251): they read IBUF, write OBUF and leave STATE, KEY, RK, IBUF and
ILEN as they are (R246; that they read RK is assumption log 18). -/

namespace Sys2Proof.Machine

/-- Output bytes written to OBUF from offset 0 on, and their number to OLEN (R250, R251, R33). -/
def State.writeOutput (out : List Byte) (s : State) : State :=
  { s.writeBytes obufBase out with olen := BitVec.ofNat 32 out.length }

/-- CBCENC (R250): E_NOKEY, then E_LENGTH; on an error no draw is consumed. It reads RK, as R242 and R250 say, although R246
says that it never does (DEDUCED, assumption log 18). -/
def execCbcenc (s : State) : Host.Outcome State Fault Refusal :=
  s.finish <| afterCheck s.keyError <|
    if encLengthBad s.bufBytes s.ilen.toNat then .error .length
    else .ok ((s.writeOutput (cbcEnc s.rk (pad (s.readBytes ibufBase s.ilen.toNat)) s.nextDraw)).takeDraw)

/-- CBCDEC (R251): E_NOKEY, then E_LENGTH; malformed padding is no error but `PADV = 0`. It reads RK,
as R243 and R251 say, although R246 says that it never does (DEDUCED, assumption log 18). -/
def execCbcdec (s : State) : Host.Outcome State Fault Refusal :=
  s.finish <| afterCheck s.keyError <|
    if decLengthBad s.bufBytes s.ilen.toNat then .error .length
    else
      let result := unpad (cbcDec s.rk (s.readBytes ibufBase s.ilen.toNat))
      let t := s.writeOutput result.1
      .ok { t with status := { t.status with padv := result.2 } }

end Sys2Proof.Machine
end

