-- ==== Sys2Proof/Machine/Cipher.lean ====
section
/-! DEFINITION. The AES commands (spec/42_aes.md R220 to R230). -/

namespace Sys2Proof.Machine

/-- AESKEYX: `KEY <- keyred(Q[a].x)`, RKV cleared; E_INF for the point at infinity. P and the range of `x` are not checked
(R220). -/
def execAeskeyx (a : QIdx) (s : State) : Host.Outcome State Fault Refusal :=
  s.finish (if s.q[a].inf then .error .inf else .ok (s.writeKey (keyred s.q[a].x)))

/-- KEYEXP: `RK[0..10] <- KeyExpansion(KEY)`, RKV set (R221). -/
def execKeyexp (s : State) : Host.Outcome State Fault Refusal := s.finish (.ok (s.writeSchedule (keyExpansion s.key)))

/-- AESENC: `STATE <- AES_Enc(STATE, RK)`; E_NOKEY when RKV = 0 (R222). -/
def execAesenc (s : State) : Host.Outcome State Fault Refusal :=
  s.finish <| afterCheck s.keyError <| .ok (s.writeBlock (aesEnc s.rk s.block))

/-- AESDEC: `STATE <- AES_Dec(STATE, RK)`; E_NOKEY when RKV = 0 (R223). -/
def execAesdec (s : State) : Host.Outcome State Fault Refusal :=
  s.finish <| afterCheck s.keyError <| .ok (s.writeBlock (aesDec s.rk s.block))

/-- SUBBYTES (R224). -/
def execSubbytes (s : State) : Host.Outcome State Fault Refusal := s.finish (.ok (s.writeBlock (subBytes s.block)))

/-- INVSUBBYTES (R225). -/
def execInvsubbytes (s : State) : Host.Outcome State Fault Refusal := s.finish (.ok (s.writeBlock (invSubBytes s.block)))

/-- SHIFTROWS (R226). -/
def execShiftrows (s : State) : Host.Outcome State Fault Refusal := s.finish (.ok (s.writeBlock (shiftRows s.block)))

/-- INVSHIFTROWS (R227). -/
def execInvshiftrows (s : State) : Host.Outcome State Fault Refusal :=
  s.finish (.ok (s.writeBlock (invShiftRows s.block)))

/-- MIXCOLUMNS (R228). -/
def execMixcolumns (s : State) : Host.Outcome State Fault Refusal := s.finish (.ok (s.writeBlock (mixColumns s.block)))

/-- INVMIXCOLUMNS (R229). -/
def execInvmixcolumns (s : State) : Host.Outcome State Fault Refusal :=
  s.finish (.ok (s.writeBlock (invMixColumns s.block)))

/-- ADDRK: `STATE <- AddRoundKey(STATE, RK[rnd])`. "E_ILLEGAL (RND 11 to 15, found at decode before anything else), then
E_NOKEY" (R230); no decoded command has such an `rnd` (assumption log 11). -/
def execAddrk (rnd : BitVec 4) (s : State) : Host.Outcome State Fault Refusal :=
  s.finish <|
    match s.roundKey rnd with
    | none => .error .illegal
    | some k => afterCheck s.keyError <| .ok (s.writeBlock (addRoundKey s.block k))

end Sys2Proof.Machine
end

