-- ==== Sys2Proof/Machine/Control.lean ====
section
/-! DEFINITION. NOP (spec/44_control.md R270). The SSCORE has no control transfer, load, store or system command (R271 to
R273). -/

namespace Sys2Proof.Machine

/-- NOP: "complete and do nothing else" (R270). -/
def execNop (s : State) : Host.Outcome State Fault Refusal := s.finish (.ok s)

end Sys2Proof.Machine
end

