-- ==== Sys2Proof/Machine/Ecc.lean ====
section
/-! DEFINITION. The curve commands (spec/41_ecc.md R155 to R162). Operands are read before the write, so `d = a` and `d = b`
are allowed. -/

namespace Sys2Proof.Machine

/-- ECADD: `Q[d] <- padd(Q[a], Q[b])` (R155). -/
def execEcadd (d a b : QIdx) (s : State) : Host.Outcome State Fault Refusal :=
  s.finish <| afterCheck (s.fieldError (s.a :: (s.q[a].checked ++ s.q[b].checked))) <|
    .ok (s.writeQ d (padd s.p.toNat s.a.toNat s.q[a].toPoint s.q[b].toPoint).toReg)

/-- ECDBL: `Q[d] <- padd(Q[a], Q[a])` (R156). -/
def execEcdbl (d a : QIdx) (s : State) : Host.Outcome State Fault Refusal :=
  s.finish <| afterCheck (s.fieldError (s.a :: s.q[a].checked)) <|
    .ok (s.writeQ d (padd s.p.toNat s.a.toNat s.q[a].toPoint s.q[a].toPoint).toReg)

/-- ECMUL: `Q[d] <- pmul(R[b], neg, Q[a])`; the scalar has no range check (R157). -/
def execEcmul (d a : QIdx) (b : RIdx) (neg : Bool) (s : State) : Host.Outcome State Fault Refusal :=
  s.finish <| afterCheck (s.fieldError (s.a :: s.q[a].checked)) <|
    .ok (s.writeQ d (pmul s.p.toNat s.a.toNat s.r[b].toNat neg s.q[a].toPoint).toReg)

/-- ECCHK: `STATUS.ONCURVE <- oncurve(Q[a])` (R161). -/
def execEcchk (a : QIdx) (s : State) : Host.Outcome State Fault Refusal :=
  s.finish <| afterCheck (s.fieldError (s.a :: s.b :: s.q[a].checked)) <|
    .ok { s with
      status := { s.status with oncurve := onCurve s.p.toNat s.a.toNat s.b.toNat s.q[a].toPoint } }

/-- ECDISC: `STATUS.NONSING <- nonsing()` (R162). -/
def execEcdisc (s : State) : Host.Outcome State Fault Refusal :=
  s.finish <| afterCheck (s.fieldError [s.a, s.b]) <|
    .ok { s with status := { s.status with nonsing := nonSingular s.p.toNat s.a.toNat s.b.toNat } }

end Sys2Proof.Machine
end

