-- ==== Sys2Proof/Machine/Modular.lean ====
section
/-! DEFINITION. The modular commands MODINV and MODSQRT (spec/40_modular.md R130, R131). -/

namespace Sys2Proof.Machine

/-- MODINV: `R[d] <- inv(R[a])` (R130). -/
def execModinv (d a : RIdx) (s : State) : Host.Outcome State Fault Refusal :=
  s.finish <| afterCheck (s.fieldError [s.r[a]]) <|
    .ok (s.writeR d (BitVec.ofNat 256 (modinv s.r[a].toNat s.p.toNat)))

/-- MODSQRT: `R[d] <- r` where `tsqrt(R[a]) = ROOT(r)`, else E_NOROOT (R131). -/
def execModsqrt (d a : RIdx) (s : State) : Host.Outcome State Fault Refusal :=
  s.finish <| afterCheck (s.fieldError [s.r[a]]) <|
    match tsqrt s.r[a].toNat s.p.toNat with
    | none => .error .noroot
    | some root => .ok (s.writeR d (BitVec.ofNat 256 root))

end Sys2Proof.Machine
end

