-- ==== Sys2Proof/Machine/Dispatch.lean ====
section
/-! DEFINITION. The meaning of every command: `perform` of its rule and the commit of spec/60_exceptions.md R306. -/

namespace Sys2Proof.Machine

def exec (i : Instr) (s : State) : Host.Outcome State Fault Refusal :=
  match i with
  | .nop => Sys2Proof.Machine.execNop s
  | .ecadd d a b => Sys2Proof.Machine.execEcadd d a b s
  | .ecdbl d a => Sys2Proof.Machine.execEcdbl d a s
  | .ecmul d a b neg => Sys2Proof.Machine.execEcmul d a b neg s
  | .ecchk a => Sys2Proof.Machine.execEcchk a s
  | .ecdisc => Sys2Proof.Machine.execEcdisc s
  | .modinv d a => Sys2Proof.Machine.execModinv d a s
  | .modsqrt d a => Sys2Proof.Machine.execModsqrt d a s
  | .aeskeyx a => Sys2Proof.Machine.execAeskeyx a s
  | .keyexp => Sys2Proof.Machine.execKeyexp s
  | .aesenc => Sys2Proof.Machine.execAesenc s
  | .aesdec => Sys2Proof.Machine.execAesdec s
  | .subbytes => Sys2Proof.Machine.execSubbytes s
  | .invsubbytes => Sys2Proof.Machine.execInvsubbytes s
  | .shiftrows => Sys2Proof.Machine.execShiftrows s
  | .invshiftrows => Sys2Proof.Machine.execInvshiftrows s
  | .mixcolumns => Sys2Proof.Machine.execMixcolumns s
  | .invmixcolumns => Sys2Proof.Machine.execInvmixcolumns s
  | .addrk rnd => Sys2Proof.Machine.execAddrk rnd s
  | .cbcenc => Sys2Proof.Machine.execCbcenc s
  | .cbcdec => Sys2Proof.Machine.execCbcdec s

end Sys2Proof.Machine
end

