-- ==== Sys2Proof/Machine/Port.lean ====
section
/-! DEFINITION. The host port: the address map, reads, writes, issue, the busy rule and reset (spec/20_memory.md R60 to R72,
spec/60_exceptions.md R305, spec/70_reset_and_hazards.md R340). -/

namespace Sys2Proof.Machine

/-- A mapped word of the window (R62). `word` counts 32-bit words from the register's offset; a buffer word is named by the
window offset of its byte 0. -/
inductive Location where
  | id
  | ctrl
  | status
  | cmd
  | ilen
  | olen
  | p (word : Fin 8)
  | a (word : Fin 8)
  | b (word : Fin 8)
  | r (i : RIdx) (word : Fin 8)
  | qinf (j : QIdx)
  | qx (j : QIdx) (word : Fin 8)
  | qy (j : QIdx) (word : Fin 8)
  | key (word : Fin 4)
  | block (word : Fin 4)
  | iv (word : Fin 4)
  | rk (i : Fin 11) (word : Fin 4)
  | ibuf (offset : Nat)
  | obuf (offset : Nat)
deriving DecidableEq, Repr

/-- The index of the 32-bit word at `off` inside a register of `n` words that starts at a multiple of `4 * n` (R62, R63). -/
def wordIndex (n : Nat) [NeZero n] (off : Nat) : Fin n := Fin.ofNat n (off / 4)

/-- ID, CTRL, STATUS, CMD, ILEN, OLEN at 0x0000 to 0x0014 (R62). -/
def controlLocation (off : Nat) : Option Location :=
  if off < 0x0004 then some .id
  else if off < 0x0008 then some .ctrl
  else if off < 0x000C then some .status
  else if off < 0x0010 then some .cmd
  else if off < 0x0014 then some .ilen
  else if off < 0x0018 then some .olen
  else none

/-- P, A, B at 0x0100, 0x0120, 0x0140 (R62). -/
def curveLocation (off : Nat) : Option Location :=
  if off < 0x0120 then some (.p (wordIndex 8 off))
  else if off < 0x0140 then some (.a (wordIndex 8 off))
  else if off < 0x0160 then some (.b (wordIndex 8 off))
  else none

/-- The point-register words: slot `j` at `0x400 + 0x80*j`, its `inf` at 0, `x` at 0x20, `y` at 0x40 (R62). -/
def pointLocation (off : Nat) : Option Location :=
  let j : QIdx := Fin.ofNat 4 ((off - 0x0400) / 0x80)
  if off % 0x80 < 0x04 then some (.qinf j)
  else if off % 0x80 < 0x20 then none
  else if off % 0x80 < 0x40 then some (.qx j (wordIndex 8 off))
  else if off % 0x80 < 0x60 then some (.qy j (wordIndex 8 off))
  else none

/-- KEY, STATE, IV at 0x0600, 0x0610, 0x0620 (R62). -/
def cipherLocation (off : Nat) : Option Location :=
  if off < 0x0610 then some (.key (wordIndex 4 off))
  else if off < 0x0620 then some (.block (wordIndex 4 off))
  else if off < 0x0630 then some (.iv (wordIndex 4 off))
  else none

/-- The address map of R62 on word-aligned offsets: "Every offset not listed gets a bus error". -/
def locate (bufBytes off : Nat) : Option Location :=
  if off < 0x0100 then controlLocation off
  else if off < 0x0200 then curveLocation off
  else if off < 0x0300 then some (.r (Fin.ofNat 8 ((off - 0x0200) / 0x20)) (wordIndex 8 off))
  else if 0x0400 ≤ off ∧ off < 0x0600 then pointLocation off
  else if 0x0600 ≤ off ∧ off < 0x0700 then cipherLocation off
  else if 0x0700 ≤ off ∧ off < 0x07B0 then some (.rk (Fin.ofNat 11 ((off - 0x0700) / 0x10)) (wordIndex 4 off))
  else if ibufBase ≤ off ∧ off < ibufBase + bufBytes then some (.ibuf off)
  else if obufBase ≤ off ∧ off < obufBase + bufBytes then some (.obuf off)
  else none

/-- The 32-bit word of a buffer: byte `k` is bits `[8k+7 : 8k]` (R64). -/
def State.bufferWord (s : State) (off : Nat) : Word := BitVec.ofNat 32 (packBytes (s.readBytes off 4))

/-- The committed value of a mapped word (R66, R71): reads of CMD and of reserved bits return 0. -/
def State.readWord (s : State) : Location → Word
  | .id => Config.idValue
  | .ctrl => s.ctrl.toWord
  | .status => s.status.toWord
  | .cmd => 0
  | .ilen => s.ilen
  | .olen => s.olen
  | .p j => getWord s.p j
  | .a j => getWord s.a j
  | .b j => getWord s.b j
  | .r i j => getWord s.r[i] j
  | .qinf i => flagBit 0 s.q[i].inf
  | .qx i j => getWord s.q[i].x j
  | .qy i j => getWord s.q[i].y j
  | .key j => getWord s.key j
  | .block j => getWord s.block j
  | .iv j => getWord s.iv j
  | .rk i j => getWord s.rk[i] j
  | .ibuf off => s.bufferWord off
  | .obuf off => s.bufferWord off

/-- An accepted issue: "latch <- w, BUSY <- 1, DONE <- 0" (spec/60_exceptions.md R305); every word is accepted. -/
def State.issue (w : Word) (s : State) : State := { s with latch := w, status := s.status.issue }

/-- A mapped write that is not dropped (R67, R68): read-only places ignore it. -/
def State.writeWord (w : Word) (s : State) : Location → State
  | .ctrl => { s with ctrl := Ctrl.ofWord w }
  | .status => { s with status := s.status.writeOneToClear w }
  | .cmd => s.issue w
  | .ilen => { s with ilen := w }
  | .p j => { s with p := setWord s.p j w }
  | .a j => { s with a := setWord s.a j w }
  | .b j => { s with b := setWord s.b j w }
  | .r i j => s.writeR i (setWord s.r[i] j w)
  | .qinf i => s.writeQ i { s.q[i] with inf := w.getLsbD 0 }
  | .qx i j => s.writeQ i { s.q[i] with x := setWord s.q[i].x j w }
  | .qy i j => s.writeQ i { s.q[i] with y := setWord s.q[i].y j w }
  | .key j => s.writeKey (setWord s.key j w)
  | .block j => s.writeBlock (setWord s.block j w)
  | .ibuf off => s.writeBytes off (bytesOf 4 w)
  | .id | .olen | .iv _ | .rk _ _ | .obuf _ => s

/-- The two offsets whose writes take effect while BUSY = 1 (R70). -/
def Location.writableWhileBusy : Location → Bool
  | .ctrl | .status => true
  | _ => false

/-- A mapped write under the busy rule: while BUSY = 1 it is dropped and sets BUSYERR, except at CTRL and STATUS (R69,
R70, R305; assumption log 7). -/
def State.hostWrite (w : Word) (loc : Location) (s : State) : State :=
  if s.status.busy && !loc.writableWhileBusy then { s with status := s.status.dropWrite } else s.writeWord w loc

/-- The place an access reaches, or the response that refuses it: an access outside the window is not this block's
(assumption log 8); one of another width than 32 bits, or misaligned, or at an unmapped offset, gets a bus error (R60, R61,
R65). -/
def State.route (s : State) (addr : Nat) (width : Width) : Except Response Location :=
  if addr < s.params.coreBase ∨ s.params.coreBase + 0x10000 ≤ addr then .error .notSelected
  else if width = .bits32 ∧ (addr - s.params.coreBase) % 4 = 0 then
    match locate s.bufBytes (addr - s.params.coreBase) with
    | some loc => .ok loc
    | none => .error .busError
  else .error .busError

/-- Reset (spec/70_reset_and_hazards.md R340): every piece of the block's state takes its value of R40, a pending command
is abandoned, and the buffers hold new draws. What is not the block's stays: the parameters, the events to come and the
environment's draws (assumption log 10). -/
def State.hardReset (s : State) : State :=
  { State.reset with
    params := s.params, turns := s.turns, ivSupply := s.ivSupply, drawCount := s.drawCount
    resetCount := s.resetCount + 1 }

/-- One host action, with the port's answer (R61, R66 to R70, R340). -/
def State.hostAct (s : State) : HostAction → State
  | .read addr width =>
    match s.route addr width with
    | .error answer => { s with response := answer }
    | .ok loc => { s with response := .data (s.readWord loc) }
  | .write addr width w =>
    match s.route addr width with
    | .error answer => { s with response := answer }
    | .ok loc => { s.hostWrite w loc with response := .written }
  | .reset => s.hardReset

/-- The state in which `w` is the pending command and the core's step comes next, everything else as it was: what a host
write of `w` to CMD leaves, so that the very next step completes it (R305, R306; assumption log 9). -/
def State.pending (w : Word) (s : State) : State :=
  { s.issue w with
    turns := match s.turns with
      | [] => []
      | later => .core :: later }

end Sys2Proof.Machine
end

