-- ==== Sys2Proof/Machine/Events.lean ====
section
/-! DEFINITION. The events of the total order of host actions and completions (spec/20_memory.md R76, spec/00_scope.md R13): the
core's step, and which event is next. -/

namespace Sys2Proof.Machine

/-- The core's step (spec/60_exceptions.md R306, R301): the latched word is decoded now, "not at issue"
(spec/30_encoding.md R94); a word that does not decode completes with E_ILLEGAL. Without a pending command the step is not
enabled and the event passes. -/
def coreStep (s : State) : Host.Outcome State Fault Refusal :=
  if s.status.busy then
    match decode s.latch with
    | .ok i => exec i s
    | .error _ => s.finish (.error .illegal)
  else .next s

/-- The next event. With no event left, the core completes what is pending: "every issued command completes" (R306); an
idle block "does nothing until the next issue" (R326; assumption log 3). -/
def nextEvent (s : State) : Host.Outcome State Fault Refusal :=
  match s.turns with
  | [] => coreStep s
  | .core :: later => coreStep { s with turns := later }
  | .host action :: later => .next ({ s with turns := later }.hostAct action)

end Sys2Proof.Machine
end

