-- ==== Sys2Proof/Machine/Step.lean ====
section
/-! DEFINITION. One step of the machine, and how a command word comes to be the next one it runs. -/

namespace Sys2Proof.Machine

/-- One step: the next event of the total order of host actions and completions (spec/20_memory.md R76). -/
def step (s : State) : Host.Outcome State Fault Refusal := nextEvent s

/-- `s` with the command word of `nbits` bits `w` pending, so that the next step runs it (assumption log 9). -/
def State.withFetchWord (s : State) (nbits w : Nat) : State := s.pending (tableWord nbits w)

end Sys2Proof.Machine
end

