-- ==== Sys2Proof/Safety.lean ====
section
/-! DEFINITION. The terms the statements use: which states are consistent, when a command's checks pass, and what a
completion leaves in STATUS. Nothing stops this machine (`Machine.Fault` is empty), so a safe run is one whose states are
consistent. -/

namespace Sys2Proof.Machine

/-- The consistency that every event keeps: the invariants the spec states of the block's own registers. -/
structure State.Consistent (s : State) : Prop where
  /-- The memory has its canonical form (assumption log 2). -/
  memoryCanonical : Memory.wf s.mem = true
  /-- Every byte that was written lies in IBUF or OBUF (spec/20_memory.md R62, R65). -/
  memoryInBuffers : ∀ c ∈ s.mem,
    (ibufBase ≤ c.1 ∧ c.1 < ibufBase + s.bufBytes) ∨ (obufBase ≤ c.1 ∧ c.1 < obufBase + s.bufBytes)
  /-- "DONE and BUSY are never both 1" (spec/10_state.md R42). -/
  doneOrBusy : ¬ (s.status.done = true ∧ s.status.busy = true)
  /-- "ERR equals `ERRCODE != 0`" (R43). -/
  errIsCode : s.status.err = (s.status.errcode.toBits != 0)
  /-- RKV "is 1 when RK[0..10] is the key schedule of the current KEY" (R45). -/
  roundKeysValid : s.status.rkv = true → s.rk = keyExpansion s.key
  /-- OLEN is a number of bytes of OBUF (R33). -/
  outputFits : s.olen.toNat ≤ s.bufBytes

/-- The modulus check passes: P is odd and at least 3 (spec/40_modular.md R120). -/
def State.ModulusOk (s : State) : Prop := 3 ≤ s.p.toNat ∧ s.p.toNat % 2 = 1

/-- The range check of a point operand passes: a finite point's coordinates are below P (R121). -/
def State.PointOk (s : State) (j : QIdx) : Prop :=
  s.q[j].inf = false → s.q[j].x.toNat < s.p.toNat ∧ s.q[j].y.toNat < s.p.toNat

/-- STATUS after a completion with the code `code` (spec/60_exceptions.md R306), written out field by field. -/
def Status.completed (st : Status) (code : ErrCode) : Status :=
  { busy := false, done := true, err := code.toBits != 0, errcode := code, oncurve := st.oncurve, nonsing := st.nonsing
    padv := st.padv, rkv := st.rkv, busyerr := st.busyerr }

/-- `s` with nothing changed but the completion fields of STATUS (R303). -/
def State.completedWith (s : State) (code : ErrCode) : State := { s with status := s.status.completed code }

/-- `s` after a command that wrote the point register `Q[d]` and completed, nothing else changed. -/
def State.withPoint (s : State) (d : QIdx) (v : PointReg) : State :=
  { s with q := s.q.set d v, status := s.status.completed .ok }

/-- `s` after a command that wrote the field register `R[d]` and completed, nothing else changed. -/
def State.withField (s : State) (d : RIdx) (v : Field) : State :=
  { s with r := s.r.set d v, status := s.status.completed .ok }

/-- `s` after a command that wrote STATE and completed, nothing else changed. -/
def State.withBlock (s : State) (v : Block) : State := { s with block := v, status := s.status.completed .ok }

/-- Commands performed one after the other, each on the state the one before left. -/
def runCommands : List Instr → State → Host.Outcome State Fault Refusal
  | [], s => .next s
  | i :: rest, s =>
    match exec i s with
    | .next t => runCommands rest t
    | .fault reason => .fault reason
    | .refused reason => .refused reason

/-- The host access that comes next: a 32-bit read at a window offset (spec/00_scope.md R11, `R off`). -/
def State.facingRead (s : State) (off : Nat) : State :=
  { s with turns := .host (.read (s.params.coreBase + off) .bits32) :: s.turns }

/-- The host access that comes next: a 32-bit write at a window offset (R11, `W off, v`). -/
def State.facingWrite (s : State) (off : Nat) (v : Word) : State :=
  { s with turns := .host (.write (s.params.coreBase + off) .bits32 v) :: s.turns }

/-- `u` and `v` hold the same 32-bit words but for word `j`, where `v` holds `w` (spec/20_memory.md R63). -/
def ReplacesWord {n : Nat} (u v : BitVec n) (j : Nat) (w : Word) : Prop :=
  ∀ k, (v.toNat / 2 ^ (32 * k)) % 2 ^ 32 = if k = j then w.toNat else (u.toNat / 2 ^ (32 * k)) % 2 ^ 32

/-- The 16 bytes of a buffer from the window offset `addr` on, as a block. -/
def State.blockAt (s : State) (addr : Nat) : Block := mkBlock fun k => s.byteAt (addr + k)

/-- The variables of the `while` loop of Tonelli–Shanks (spec/40_modular.md R126). -/
structure TonelliVars where
  m : Nat
  c : Nat
  t : Nat
  r : Nat
deriving DecidableEq, Repr

/-- One pass of that loop, as a relation: `i` is the least integer in `[1, m - 1]` with `t^(2^i) mod P = 1` (R126). -/
def TonelliPass (P : Nat) (u v : TonelliVars) : Prop :=
  u.t ≠ 1 ∧ ∃ i b, 1 ≤ i ∧ i < u.m ∧ u.t ^ 2 ^ i % P = 1 ∧ (∀ j, 1 ≤ j → j < i → u.t ^ 2 ^ j % P ≠ 1) ∧
    b = u.c ^ 2 ^ (u.m - i - 1) % P ∧
    v = { m := i, c := b * b % P, t := u.t * (b * b % P) % P, r := u.r * b % P }

/-- `s` when the event `e` comes next. -/
def State.facing (s : State) (e : Turn) : State := { s with turns := e :: s.turns }

end Sys2Proof.Machine

namespace Sys2Proof

/-- The commands that check the modulus and the range of their operands (R120, R121). -/
def Instr.isFieldCommand : Instr → Bool
  | .ecadd _ _ _ | .ecdbl _ _ | .ecmul _ _ _ _ | .ecchk _ | .ecdisc | .modinv _ _ | .modsqrt _ _ => true
  | .nop | .aeskeyx _ | .keyexp | .aesenc | .aesdec | .subbytes | .invsubbytes | .shiftrows | .invshiftrows
  | .mixcolumns | .invmixcolumns | .addrk _ | .cbcenc | .cbcdec => false

/-- The field operands such a command reads: "`R[a]` for MODINV and MODSQRT; `A` for ECADD, ECDBL, ECMUL, ECCHK and ECDISC;
`B` for ECCHK and ECDISC; and `x` and `y` of every source point register with `inf = 0`" (R121). -/
def Instr.readsFieldValue (i : Instr) (s : Machine.State) (v : Field) : Prop :=
  let coordinate := fun (j : QIdx) => s.q[j].inf = false ∧ (v = s.q[j].x ∨ v = s.q[j].y)
  match i with
  | .ecadd _ a b => v = s.a ∨ coordinate a ∨ coordinate b
  | .ecdbl _ a => v = s.a ∨ coordinate a
  | .ecmul _ a _ _ => v = s.a ∨ coordinate a
  | .ecchk a => v = s.a ∨ v = s.b ∨ coordinate a
  | .ecdisc => v = s.a ∨ v = s.b
  | .modinv _ a => v = s.r[a]
  | .modsqrt _ a => v = s.r[a]
  | .nop | .aeskeyx _ | .keyexp | .aesenc | .aesdec | .subbytes | .invsubbytes | .shiftrows | .invshiftrows
  | .mixcolumns | .invmixcolumns | .addrk _ | .cbcenc | .cbcdec => False

/-- The commands that need the round keys (spec/10_state.md R45). -/
def Instr.needsKey : Instr → Bool
  | .aesenc | .aesdec | .addrk _ | .cbcenc | .cbcdec => true
  | .nop | .ecadd _ _ _ | .ecdbl _ _ | .ecmul _ _ _ _ | .ecchk _ | .ecdisc | .modinv _ _ | .modsqrt _ _ | .aeskeyx _
  | .keyexp | .subbytes | .invsubbytes | .shiftrows | .invshiftrows | .mixcolumns | .invmixcolumns => false

end Sys2Proof
end

