-- ==== Sys2Proof/Certificates/Slice0/Obligations.lean ====
section
/-! DEFINITION. The statements about the SSCORE, from the numbered rules of spec/. Each quantifies over every state its
hypotheses admit. A result is written as the whole next state, so it is its own frame: what the record does not name is as
it was. That this takes in the latch, which no completion changes, is the model's choice (assumption log 17). -/

open Sys2Proof Sys2Proof.Machine

/-! ### Encoding -/

/-- 30_encoding.md R94 to R96: decode and encode agree: every legal command, with every operand at every value, is given back by
`decode(enc)`, and a word decodes only to a legal command whose encoding it is, so no bit of a word is dropped. The spec marks
the first half (R95) as derived from R94 and R96. -/
def Obligations.DecodeAndEncodeAgree : Prop :=
  ∀ (w : Word) (i : Instr), decode w = .ok i ↔ (WellFormed i = true ∧ encode i = w)

/-- 30_encoding.md R97 and 60_exceptions.md R301: the illegal words are those of the six classes, written by their fields
as numbers, and such a word completes with E_ILLEGAL and writes nothing else. -/
def Obligations.IllegalWordsAndTheirCompletion : Prop :=
  (∀ w : Word,
    let opc := w.toNat % 256
    let fd := w.toNat / 2 ^ 8 % 16
    let fa := w.toNat / 2 ^ 12 % 16
    let fb := w.toNat / 2 ^ 16 % 16
    let neg := w.toNat / 2 ^ 20 % 2
    let rnd := w.toNat / 2 ^ 24 % 16
    (∃ reason, decode w = .error reason) ↔
      (opc ∉ [0x00, 0x01, 0x02, 0x03, 0x04, 0x05, 0x08, 0x09, 0x10, 0x11, 0x12, 0x13, 0x14, 0x15, 0x16, 0x17, 0x18, 0x19,
          0x1A, 0x20, 0x21]) ∨
      (w.toNat / 2 ^ 21 % 8 ≠ 0 ∨ w.toNat / 2 ^ 28 ≠ 0) ∨
      (fd ≠ 0 ∧ opc ∉ [0x01, 0x02, 0x03, 0x08, 0x09]) ∨ (fa ≠ 0 ∧ opc ∉ [0x01, 0x02, 0x03, 0x04, 0x08, 0x09, 0x10]) ∨
        (fb ≠ 0 ∧ opc ∉ [0x01, 0x03]) ∨ (rnd ≠ 0 ∧ opc ≠ 0x1A) ∨
      (3 < fd ∧ opc ∈ [0x01, 0x02, 0x03]) ∨ (7 < fd ∧ opc ∈ [0x08, 0x09]) ∨ (3 < fa ∧ opc ∈ [0x01, 0x02, 0x03, 0x04, 0x10]) ∨
        (7 < fa ∧ opc ∈ [0x08, 0x09]) ∨ (3 < fb ∧ opc = 0x01) ∨ (7 < fb ∧ opc = 0x03) ∨
      (neg = 1 ∧ opc ≠ 0x03) ∨
      (10 < rnd ∧ opc = 0x1A)) ∧
  ∀ (s : State) (reason : Illegal), s.status.busy = true → decode s.latch = .error reason →
    step (s.facing .core) = .next (s.completedWith .illegal)

/-- 30_encoding.md R96 and 95_test_vectors.md V-ENC-1: a few words written out from the opcode map decode to the commands they
stand for. -/
def Obligations.WrittenOutWordsDecode : Prop :=
  decode 0x00013301 = .ok (.ecadd 3 3 1) ∧ decode 0x00100103 = .ok (.ecmul 1 0 0 true) ∧
  decode 0x00001208 = .ok (.modinv 2 1) ∧ decode 0x00003010 = .ok (.aeskeyx 3) ∧ decode 0x0A00001A = .ok (.addrk 10) ∧
  decode 0x00000021 = .ok .cbcdec ∧ decode 0x00000000 = .ok .nop

/-! ### Steps, issue and completion -/

/-- 60_exceptions.md R306 and 30_encoding.md R94: when a command is pending and the core's step comes next, the step is the
meaning of the command that the latched word decodes to, on the state with that turn taken. That the core's step also comes
next when no event is left (the second clause) is the model's choice (assumption log 3, DESIGN CHOICE). -/
def Obligations.StepRunsTheDecodedCommand : Prop :=
  ∀ (s : State) (i : Instr), s.status.busy = true → decode s.latch = .ok i →
    step (s.facing .core) = exec i s ∧ (s.turns = [] → step s = exec i s)

/-- 60_exceptions.md R305: a write of any word `w` to CMD latches it, sets BUSY and clears DONE when BUSY = 0, and only sets
BUSYERR when BUSY = 1. Nothing is decoded and ERRCODE stays. -/
def Obligations.CommandWriteIssuesOrIsDropped : Prop :=
  ∀ (s : State) (w : Word),
    (s.status.busy = false → step (s.facingWrite 0x00C w) =
      .next { s with latch := w, status := { s.status with busy := true, done := false }, response := .written }) ∧
    (s.status.busy = true → step (s.facingWrite 0x00C w) =
      .next { s with status := { s.status with busyerr := true }, response := .written })

/-- 60_exceptions.md R306: every command in every state completes: BUSY is 0, DONE is 1 and ERR says whether ERRCODE is not 0.
CTRL, BUSYERR, the host's events and the parameters are left alone. That the latch is left alone too is the model's choice
(assumption log 17, DESIGN CHOICE). -/
def Obligations.EveryCommandCompletes : Prop :=
  ∀ (i : Instr) (s : State), ∃ t, exec i s = .next t ∧ t.status.busy = false ∧ t.status.done = true ∧
    t.status.err = (t.status.errcode.toBits != 0) ∧ t.status.busyerr = s.status.busyerr ∧ t.ctrl = s.ctrl ∧
    t.latch = s.latch ∧ t.turns = s.turns ∧ t.params = s.params ∧ t.response = s.response

/-- 60_exceptions.md R303: a command that completes with an error writes no register, buffer or flag except BUSY, DONE, ERR and
ERRCODE. -/
def Obligations.FailedCommandWritesNothingElse : Prop :=
  ∀ (i : Instr) (s t : State), exec i s = .next t → t.status.errcode ≠ .ok → t = s.completedWith t.status.errcode

/-- The machine never stops: every state has a next one. Commands do not trap (60_exceptions.md R309); that a bus error is an
answer and no fault (assumption log 4, DESIGN CHOICE), and that an idle block with no event to come stays as it is (assumption
log 3, DESIGN CHOICE), are the model's choices. -/
def Obligations.EveryStepAnswersNext : Prop := ∀ s : State, ∃ t, step s = .next t

/-- 60_exceptions.md R306 (weak fairness, as the model's finite list of events gives it, assumption log 3, DESIGN CHOICE): from
any state with a command pending, BUSY is 0 within one step more than there are events to come. -/
def Obligations.PendingCommandEnds : Prop :=
  ∀ s : State, s.status.busy = true →
    ∃ n t, n ≤ s.turns.length + 1 ∧ Host.Core.run Sys2Proof.core n s = .next t ∧ t.status.busy = false

/-- 60_exceptions.md R308: a CMD write and a completion contend, and the model admits both orders: the write after the completion
is accepted, the write before it is dropped with BUSYERR and the completion follows. -/
def Obligations.CompletionAndCommandWriteInEitherOrder : Prop :=
  ∀ (s t : State) (i : Instr) (w : Word), s.status.busy = true → decode s.latch = .ok i → exec i s = .next t →
    (∃ u, step (s.facingWrite 0x00C w) = .next u ∧ u.status.busyerr = true ∧ u.latch = s.latch ∧ u.status.busy = true ∧
      decode u.latch = .ok i ∧ step (u.facing .core) = exec i u) ∧
    (∃ v, step (t.facingWrite 0x00C w) = .next v ∧ v.latch = w ∧ v.status.busy = true ∧
      v.status.busyerr = s.status.busyerr)

/-! ### Errors and their order -/

/-- 40_modular.md R120, 60_exceptions.md R302: with P even or below 3 every curve and modular command completes with E_MODULUS,
whatever its operands. -/
def Obligations.ModulusErrorComesFirst : Prop :=
  ∀ (i : Instr) (s : State), i.isFieldCommand = true → (s.p.toNat < 3 ∨ s.p.toNat % 2 = 0) →
    exec i s = .next (s.completedWith .modulus)

/-- 40_modular.md R121, 60_exceptions.md R302: with a good P, a field operand the command reads that is at least P gives
E_RANGE. -/
def Obligations.RangeErrorComesSecond : Prop :=
  ∀ (i : Instr) (s : State) (v : Field), i.isFieldCommand = true → s.ModulusOk → i.readsFieldValue s v →
    s.p.toNat ≤ v.toNat → exec i s = .next (s.completedWith .range)

/-- 10_state.md R45, 60_exceptions.md R302: while RKV = 0, AESENC, AESDEC, ADDRK, CBCENC and CBCDEC complete with E_NOKEY,
whatever ILEN is. -/
def Obligations.NoKeyErrorWithoutRoundKeys : Prop :=
  ∀ (i : Instr) (s : State), WellFormed i = true → i.needsKey = true → s.status.rkv = false →
    exec i s = .next (s.completedWith .nokey)

/-- 43_cbc.md R244, R245: with round keys, a length the CBC commands do not take gives E_LENGTH, and no draw is consumed. -/
def Obligations.LengthErrors : Prop :=
  ∀ s : State, s.status.rkv = true →
    ((s.bufBytes < s.ilen.toNat ∨ s.bufBytes < 16 * (s.ilen.toNat / 16 + 2)) →
      exec .cbcenc s = .next (s.completedWith .length)) ∧
    ((s.ilen.toNat % 16 ≠ 0 ∨ s.ilen.toNat < 32 ∨ s.bufBytes < s.ilen.toNat) →
      exec .cbcdec s = .next (s.completedWith .length))

/-! ### NOP and the modular commands -/

/-- 44_control.md R270: NOP completes and does nothing else. -/
def Obligations.NopOnlyCompletes : Prop := ∀ s : State, exec .nop s = .next (s.completedWith .ok)

/-- 40_modular.md R124 (with R130): MODINV writes `R[a]^(P-2) mod P`; for a prime P and an operand that is not 0 it is the
inverse, and for 0 it is 0. -/
def Obligations.ModinvWritesFermatInverse : Prop :=
  ∀ (s : State) (d a : RIdx), s.ModulusOk → s.r[a].toNat < s.p.toNat →
    ∃ v : Field, exec (.modinv d a) s = .next (s.withField d v) ∧
      v.toNat = s.r[a].toNat ^ (s.p.toNat - 2) % s.p.toNat ∧
      (s.p.toNat.Prime → s.r[a].toNat ≠ 0 → s.r[a].toNat * v.toNat % s.p.toNat = 1) ∧
      (s.r[a].toNat = 0 → v.toNat = 0)

/-- 40_modular.md R127 (with R131): for every odd P, prime or not, MODSQRT completes either with a root below P that squares
to the operand or with E_NOROOT. -/
def Obligations.ModsqrtNeverReturnsAWrongRoot : Prop :=
  ∀ (s : State) (d a : RIdx), s.ModulusOk → s.r[a].toNat < s.p.toNat →
    (∃ v : Field, exec (.modsqrt d a) s = .next (s.withField d v) ∧ v.toNat < s.p.toNat ∧
      v.toNat * v.toNat % s.p.toNat = s.r[a].toNat) ∨
    exec (.modsqrt d a) s = .next (s.completedWith .noroot)

/-- 40_modular.md R126, R127, R128: which root MODSQRT writes, for every odd P, prime or not. 0 has the root 0; an operand whose
Legendre symbol is not 1 has none; for P mod 4 = 3 the root is exactly `n^((P+1)/4) mod P`; for P mod 4 = 1, with
`P - 1 = q * 2^e`, q odd, it is the `r` that the loop of R126 ends with from the least non-residue `z`, and there is none if
no such `z` exists or the loop finds no `i`. A root is written only if it passes the final check of R127. -/
def Obligations.ModsqrtLegendreAndFastPath : Prop :=
  ∀ (s : State) (d a : RIdx), s.ModulusOk → s.r[a].toNat < s.p.toNat →
    let P := s.p.toNat
    let n := s.r[a].toNat
    let legendreOf := fun (x : Nat) => x ^ ((P - 1) / 2) % P
    let checked := fun (root : Nat) =>
      if root * root % P = n then s.withField d (BitVec.ofNat 256 root) else s.completedWith .noroot
    (n = 0 → exec (.modsqrt d a) s = .next (s.withField d 0)) ∧
    (n ≠ 0 → legendreOf n ≠ 1 → exec (.modsqrt d a) s = .next (s.completedWith .noroot)) ∧
    (n ≠ 0 → legendreOf n = 1 → P % 4 = 3 → exec (.modsqrt d a) s = .next (checked (n ^ ((P + 1) / 4) % P))) ∧
    (n ≠ 0 → legendreOf n = 1 → P % 4 = 1 → ∀ q e, P - 1 = q * 2 ^ e → q % 2 = 1 →
      ((∀ z, 2 ≤ z → z < P → legendreOf z ≠ P - 1) → exec (.modsqrt d a) s = .next (s.completedWith .noroot)) ∧
      ∀ z, 2 ≤ z → z < P → legendreOf z = P - 1 → (∀ y, 2 ≤ y → y < z → legendreOf y ≠ P - 1) →
        ∃ last : TonelliVars,
          Relation.ReflTransGen (TonelliPass P)
            { m := e, c := z ^ q % P, t := n ^ q % P, r := n ^ ((q + 1) / 2) % P } last ∧
          ((last.t = 1 ∧ exec (.modsqrt d a) s = .next (checked last.r)) ∨
            (last.t ≠ 1 ∧ (∀ i, 1 ≤ i → i < last.m → last.t ^ 2 ^ i % P ≠ 1) ∧
              exec (.modsqrt d a) s = .next (s.completedWith .noroot))))

/-- 40_modular.md R126, R127 (95_test_vectors.md W3): for every odd prime P, MODSQRT completes with a root of every square; the
spec takes this correctness of Tonelli–Shanks from general knowledge. -/
def Obligations.ModsqrtFindsEveryRootForPrimes : Prop :=
  ∀ (s : State) (d a : RIdx), s.ModulusOk → s.p.toNat.Prime → s.r[a].toNat < s.p.toNat →
    (∃ x : Nat, x * x % s.p.toNat = s.r[a].toNat) →
    ∃ v : Field, exec (.modsqrt d a) s = .next (s.withField d v) ∧
      v.toNat * v.toNat % s.p.toNat = s.r[a].toNat

/-! ### Curve commands -/

/-- 41_ecc.md R151 (with R155): ECADD with the point at infinity writes the other operand, INF as `inf = 1, x = 0, y = 0`. -/
def Obligations.EcaddIdentity : Prop :=
  ∀ (s : State) (d a b : QIdx), s.ModulusOk → s.a.toNat < s.p.toNat → s.PointOk a → s.PointOk b →
    (s.q[a].inf = true → exec (.ecadd d a b) s =
      .next (s.withPoint d (if s.q[b].inf then { inf := true, x := 0, y := 0 } else s.q[b]))) ∧
    (s.q[b].inf = true → exec (.ecadd d a b) s =
      .next (s.withPoint d (if s.q[a].inf then { inf := true, x := 0, y := 0 } else s.q[a])))

/-- 41_ecc.md R151 (with R155): ECADD of finite points with different x-coordinates: the slope is `(y2 - y1) / (x2 - x1)`, the
quotient by the Fermat power, and the coordinates follow from it; every quantity is an integer reduced mod P. -/
def Obligations.EcaddChord : Prop :=
  ∀ (s : State) (d a b : QIdx), s.ModulusOk → s.a.toNat < s.p.toNat → s.PointOk a → s.PointOk b →
    s.q[a].inf = false → s.q[b].inf = false → s.q[a].x ≠ s.q[b].x →
    let P : Int := s.p.toNat
    let x1 : Int := s.q[a].x.toNat
    let y1 : Int := s.q[a].y.toNat
    let x2 : Int := s.q[b].x.toNat
    let y2 : Int := s.q[b].y.toNat
    let slope : Int := (y2 - y1) * (x2 - x1) ^ (s.p.toNat - 2) % P
    ∃ x3 y3 : Field, exec (.ecadd d a b) s = .next (s.withPoint d { inf := false, x := x3, y := y3 }) ∧
      (x3.toNat : Int) = (slope * slope - x1 - x2) % P ∧ (y3.toNat : Int) = (slope * (x1 - x3.toNat) - y1) % P

/-- 41_ecc.md R151, R152 item 3: ECADD of finite points with one x-coordinate: inverses give INF, and two points that are neither
inverses nor equal (off the curve, or P composite) give `((-2*x1) mod P, (-y1) mod P)`. -/
def Obligations.EcaddSameX : Prop :=
  ∀ (s : State) (d a b : QIdx), s.ModulusOk → s.a.toNat < s.p.toNat → s.PointOk a → s.PointOk b →
    s.q[a].inf = false → s.q[b].inf = false → s.q[a].x = s.q[b].x →
    ((s.q[a].y.toNat + s.q[b].y.toNat) % s.p.toNat = 0 →
      exec (.ecadd d a b) s = .next (s.withPoint d { inf := true, x := 0, y := 0 })) ∧
    ((s.q[a].y.toNat + s.q[b].y.toNat) % s.p.toNat ≠ 0 → s.q[a].y ≠ s.q[b].y →
      ∃ x3 y3 : Field, exec (.ecadd d a b) s = .next (s.withPoint d { inf := false, x := x3, y := y3 }) ∧
        (x3.toNat : Int) = (-2 * (s.q[a].x.toNat : Int)) % s.p.toNat ∧
        (y3.toNat : Int) = (-(s.q[a].y.toNat : Int)) % s.p.toNat)

/-- 41_ecc.md R151 (with R156): ECDBL of a finite point with `y` not 0: the slope is `(3*x1^2 + A) / (2*y1)`, the quotient by the
Fermat power; INF and a point with `y = 0` give INF. -/
def Obligations.EcdblTangent : Prop :=
  ∀ (s : State) (d a : QIdx), s.ModulusOk → s.a.toNat < s.p.toNat → s.PointOk a →
    let P : Int := s.p.toNat
    let x1 : Int := s.q[a].x.toNat
    let y1 : Int := s.q[a].y.toNat
    let slope : Int := (3 * x1 * x1 + s.a.toNat) * (2 * y1) ^ (s.p.toNat - 2) % P
    ((s.q[a].inf = true ∨ s.q[a].y = 0) →
      exec (.ecdbl d a) s = .next (s.withPoint d { inf := true, x := 0, y := 0 })) ∧
    (s.q[a].inf = false → s.q[a].y ≠ 0 →
      ∃ x3 y3 : Field, exec (.ecdbl d a) s = .next (s.withPoint d { inf := false, x := x3, y := y3 }) ∧
        (x3.toNat : Int) = (slope * slope - x1 - x1) % P ∧ (y3.toNat : Int) = (slope * (x1 - x3.toNat) - y1) % P)

/-- 41_ecc.md R151, R155, R156 (30_encoding.md R100): ECADD of two registers that hold one point gives the same result as ECDBL of
that point, in every state; one register taken twice is such a pair (the spec marks that case as derived). -/
def Obligations.EcaddOfOnePointIsEcdbl : Prop :=
  ∀ (s : State) (d a b : QIdx), s.q[a] = s.q[b] → exec (.ecadd d a b) s = exec (.ecdbl d a) s

/-- 41_ecc.md R154 (with R157): ECMUL writes the double-and-add result over the bits of `R[b]`, least significant first, of
`Q[a]`, or with NEG = 1 of its negation `(x, (P - y) mod P)` (R153).
That the latch keeps its word is the model's choice (assumption log 17). -/
def Obligations.EcmulDoublesAndAdds : Prop :=
  ∀ (s : State) (d a : QIdx) (b : RIdx) (neg : Bool), s.ModulusOk → s.a.toNat < s.p.toNat → s.PointOk a →
    let P := s.p.toNat
    let start : Point :=
      if s.q[a].inf then .inf
      else if neg then .fin s.q[a].x.toNat ((P - s.q[a].y.toNat) % P)
      else .fin s.q[a].x.toNat s.q[a].y.toNat
    let last := (List.range 256).foldl
      (fun (acc : Point × Point) i =>
        (if s.r[b].getLsbD i then padd P s.a.toNat acc.1 acc.2 else acc.1, padd P s.a.toNat acc.2 acc.2))
      (.inf, start)
    exec (.ecmul d a b neg) s = .next (s.withPoint d last.1.toReg)

/-- 41_ecc.md R157, R158: ECMUL by 0 gives INF with either sign; by 1 it gives `Q[a]`, and with NEG = 1 its negation; these
hold for every point and every P. -/
def Obligations.EcmulByZeroAndOne : Prop :=
  ∀ (s : State) (d a : QIdx) (b : RIdx) (neg : Bool), s.ModulusOk → s.a.toNat < s.p.toNat → s.PointOk a →
    ((s.r[b].toNat = 0 ∨ s.q[a].inf = true) →
      exec (.ecmul d a b neg) s = .next (s.withPoint d { inf := true, x := 0, y := 0 })) ∧
    (s.r[b].toNat = 1 → s.q[a].inf = false → neg = false → exec (.ecmul d a b neg) s = .next (s.withPoint d s.q[a])) ∧
    (s.r[b].toNat = 1 → s.q[a].inf = false → neg = true → ∃ y : Field,
      exec (.ecmul d a b neg) s = .next (s.withPoint d { inf := false, x := s.q[a].x, y := y }) ∧
      (y.toNat : Int) = (-(s.q[a].y.toNat : Int)) % s.p.toNat)

/-- 41_ecc.md R158: for a prime P and operands on the curve, ECADD and ECMUL give a point on the curve, with coordinates below
P. The spec takes the group law from general knowledge; no non-singularity is needed for this part of it. -/
def Obligations.PointCommandsStayOnTheCurve : Prop :=
  ∀ (s : State) (d a : QIdx), s.ModulusOk → s.p.toNat.Prime → s.a.toNat < s.p.toNat → s.b.toNat < s.p.toNat →
    let good := fun (t : State) (j : QIdx) =>
      t.q[j].inf = true ∨
        (t.q[j].x.toNat < s.p.toNat ∧ t.q[j].y.toNat < s.p.toNat ∧
          (t.q[j].y.toNat : Int) ^ 2 ≡ (t.q[j].x.toNat : Int) ^ 3 + s.a.toNat * t.q[j].x.toNat + s.b.toNat
            [ZMOD s.p.toNat])
    good s a →
      (∀ b : QIdx, good s b → ∃ t, exec (.ecadd d a b) s = .next t ∧ t.status.errcode = .ok ∧ good t d) ∧
      (∀ (b : RIdx) (neg : Bool), ∃ t, exec (.ecmul d a b neg) s = .next t ∧ t.status.errcode = .ok ∧ good t d)

/-- 41_ecc.md R160, R161: ECCHK sets ONCURVE exactly for INF and for a point with `y^2 = x^3 + A*x + B` mod P. -/
def Obligations.EcchkReportsMembership : Prop :=
  ∀ (s : State) (a : QIdx), s.ModulusOk → s.a.toNat < s.p.toNat → s.b.toNat < s.p.toNat → s.PointOk a →
    ∃ flag : Bool,
      exec (.ecchk a) s = .next { s with status := { s.status.completed .ok with oncurve := flag } } ∧
      (flag = true ↔ s.q[a].inf = true ∨
        (s.q[a].y.toNat : Int) ^ 2 ≡ (s.q[a].x.toNat : Int) ^ 3 + s.a.toNat * s.q[a].x.toNat + s.b.toNat
          [ZMOD s.p.toNat])

/-- 41_ecc.md R160, R162: ECDISC sets NONSING exactly when P does not divide `4*A^3 + 27*B^2`. -/
def Obligations.EcdiscReportsNonSingularity : Prop :=
  ∀ s : State, s.ModulusOk → s.a.toNat < s.p.toNat → s.b.toNat < s.p.toNat →
    ∃ flag : Bool,
      exec .ecdisc s = .next { s with status := { s.status.completed .ok with nonsing := flag } } ∧
      (flag = true ↔ ¬ s.p.toNat ∣ 4 * s.a.toNat ^ 3 + 27 * s.b.toNat ^ 2)

/-- 10_state.md R24, 41_ecc.md R152 item 5: point addition, doubling and scalar multiplication never read B. -/
def Obligations.PointCommandsIgnoreB : Prop :=
  ∀ (s t : State) (i : Instr) (v : Field),
    (∃ d a b, i = .ecadd d a b) ∨ (∃ d a, i = .ecdbl d a) ∨ (∃ d a b neg, i = .ecmul d a b neg) →
    exec i s = .next t → exec i { s with b := v } = .next { t with b := v }

/-! ### AES commands -/

/-- 42_aes.md R210, R220: AESKEYX keeps the low 128 bits of the x-coordinate as KEY, byte for byte, and clears RKV; the point at
infinity gives E_INF. Neither P nor the range of x is checked.
That the latch keeps its word is the model's choice (assumption log 17). -/
def Obligations.AeskeyxReducesTheSecret : Prop :=
  ∀ (s : State) (a : QIdx),
    (s.q[a].inf = false → ∃ k : Block,
      exec (.aeskeyx a) s = .next { s with key := k, status := { s.status.completed .ok with rkv := false } } ∧
      k.toNat = s.q[a].x.toNat % 2 ^ 128 ∧ ∀ j < 16, byteAt k j = byteAt s.q[a].x j) ∧
    (s.q[a].inf = true → exec (.aeskeyx a) s = .next (s.completedWith .inf))

/-- 42_aes.md R198, R199 (with R221): KEYEXP writes eleven round keys whose 44 words start with the key's and follow the
recurrence, byte by byte, and sets RKV. `w i m` is byte `m` of `w[i]`; the round constant is `xtime` iterated from 1.
That the latch keeps its word is the model's choice (assumption log 17). -/
def Obligations.KeyexpFollowsTheRecurrence : Prop :=
  ∀ s : State, ∃ rks : Vector Block 11,
    exec .keyexp s = .next { s with rk := rks, status := { s.status.completed .ok with rkv := true } } ∧
    let w := fun (i m : Nat) => byteAt (rks.toList.getD (i / 4) 0) (4 * (i % 4) + m)
    (∀ i < 4, ∀ m < 4, w i m = byteAt s.key (4 * i + m)) ∧
    ∀ i, 4 ≤ i → i < 44 → ∀ m < 4,
      w i m = w (i - 4) m ^^^
        (if i % 4 = 0 then sbox (w (i - 1) ((m + 1) % 4)) ^^^ (if m = 0 then xtime^[i / 4 - 1] 1 else 0) else w (i - 1) m)

/-- 42_aes.md R222, R223: with round keys, AESENC and AESDEC apply the cipher of R200 and the inverse cipher of R201 to STATE. -/
def Obligations.AesCommandsApplyTheCipher : Prop :=
  ∀ s : State, s.status.rkv = true →
    exec .aesenc s = .next (s.withBlock (aesEnc s.rk s.block)) ∧ exec .aesdec s = .next (s.withBlock (aesDec s.rk s.block))

/-- 42_aes.md R231: AESENC leaves in the whole machine what its transforms leave when the host performs them one by one, and so
does AESDEC with the inverse sequence. The spec marks it as derived. -/
def Obligations.CipherIsItsTransforms : Prop :=
  ∀ s : State, s.status.rkv = true →
    runCommands
        (.addrk 0 :: ([1, 2, 3, 4, 5, 6, 7, 8, 9].flatMap fun r => [.subbytes, .shiftrows, .mixcolumns, .addrk r]) ++
          [.subbytes, .shiftrows, .addrk 10]) s = exec .aesenc s ∧
    runCommands
        (.addrk 10 :: ([9, 8, 7, 6, 5, 4, 3, 2, 1].flatMap fun r => [.invshiftrows, .invsubbytes, .addrk r, .invmixcolumns]) ++
          [.invshiftrows, .invsubbytes, .addrk 0]) s = exec .aesdec s

/-- 42_aes.md R223, R201: AESENC then AESDEC, with the round keys unchanged, restores STATE, for every block and every
schedule; and so does AESDEC then AESENC. -/
def Obligations.AesdecUndoesAesenc : Prop :=
  ∀ s : State, s.status.rkv = true →
    runCommands [.aesenc, .aesdec] s = .next (s.completedWith .ok) ∧
    runCommands [.aesdec, .aesenc] s = .next (s.completedWith .ok)

/-- 42_aes.md R192, R194 (with R224): SUBBYTES replaces each byte by the affine transform of its inverse in GF(2^8), 0 mapped
to 0: bit `n` of the result is `b_n XOR b_(n+4) XOR b_(n+5) XOR b_(n+6) XOR b_(n+7) XOR c_n`, indices mod 8, `c = 0x63`. -/
def Obligations.SubbytesIsAffineOfInverse : Prop :=
  ∀ s : State, ∃ v : Block, exec .subbytes s = .next (s.withBlock v) ∧
    ∀ j < 16, ∃ inverse : Byte,
      (if byteAt s.block j = 0 then inverse = 0 else gmul (byteAt s.block j) inverse = 1) ∧
      ∀ n < 8, (byteAt v j).getLsbD n =
        (inverse.getLsbD n ^^ inverse.getLsbD ((n + 4) % 8) ^^ inverse.getLsbD ((n + 5) % 8) ^^
          inverse.getLsbD ((n + 6) % 8) ^^ inverse.getLsbD ((n + 7) % 8) ^^ (0x63#8).getLsbD n)

/-- 42_aes.md R193, R194 (with R225): INVSUBBYTES replaces each byte by the one whose S-box entry it is. -/
def Obligations.InvsubbytesInvertsTheSbox : Prop :=
  ∀ s : State, ∃ v : Block, exec .invsubbytes s = .next (s.withBlock v) ∧
    ∀ j < 16, sbox (byteAt v j) = byteAt s.block j

/-- 42_aes.md R195 (with R226, R227): SHIFTROWS rotates row `row` left by `row` positions, INVSHIFTROWS right, where byte
`row + 4*col` is `s[row][col]`.
That the latch keeps its word is the model's choice (assumption log 17). -/
def Obligations.RowShiftsRotateRows : Prop :=
  ∀ s : State, ∃ v u : Block,
    exec .shiftrows s = .next (s.withBlock v) ∧ exec .invshiftrows s = .next (s.withBlock u) ∧
    ∀ row < 4, ∀ col < 4,
      byteAt v (row + 4 * col) = byteAt s.block (row + 4 * ((col + row) % 4)) ∧
      byteAt u (row + 4 * ((col + row) % 4)) = byteAt s.block (row + 4 * col)

/-- 42_aes.md R196 (with R228): MIXCOLUMNS, each column by the first row of the matrix, turned by one for each row; the
products by 2 and 3 are `xtime(x)` and `xtime(x) XOR x`. -/
def Obligations.MixcolumnsFormula : Prop :=
  ∀ s : State, ∃ v : Block, exec .mixcolumns s = .next (s.withBlock v) ∧
    ∀ row < 4, ∀ col < 4,
      let x := fun n => byteAt s.block ((row + n) % 4 + 4 * col)
      byteAt v (row + 4 * col) = xtime (x 0) ^^^ (xtime (x 1) ^^^ x 1) ^^^ x 2 ^^^ x 3

/-- 42_aes.md R196 (with R229): INVMIXCOLUMNS, by the matrix row `(0e 0b 0d 09)` turned by one for each row; the products are
sums of iterated `xtime`. -/
def Obligations.InvmixcolumnsFormula : Prop :=
  ∀ s : State, ∃ v : Block, exec .invmixcolumns s = .next (s.withBlock v) ∧
    ∀ row < 4, ∀ col < 4,
      let x := fun n => byteAt s.block ((row + n) % 4 + 4 * col)
      byteAt v (row + 4 * col) =
        (xtime (xtime (xtime (x 0))) ^^^ xtime (xtime (x 0)) ^^^ xtime (x 0)) ^^^
        (xtime (xtime (xtime (x 1))) ^^^ xtime (x 1) ^^^ x 1) ^^^
        (xtime (xtime (xtime (x 2))) ^^^ xtime (xtime (x 2)) ^^^ x 2) ^^^ (xtime (xtime (xtime (x 3))) ^^^ x 3)

/-- 42_aes.md R196, R225, R229: each inverse transform restores what its transform did, and the other way round, the whole
machine but the completion fields as before. -/
def Obligations.TransformsAndInversesCancel : Prop :=
  ∀ s : State,
    runCommands [.subbytes, .invsubbytes] s = .next (s.completedWith .ok) ∧
    runCommands [.invsubbytes, .subbytes] s = .next (s.completedWith .ok) ∧
    runCommands [.shiftrows, .invshiftrows] s = .next (s.completedWith .ok) ∧
    runCommands [.invshiftrows, .shiftrows] s = .next (s.completedWith .ok) ∧
    runCommands [.mixcolumns, .invmixcolumns] s = .next (s.completedWith .ok) ∧
    runCommands [.invmixcolumns, .mixcolumns] s = .next (s.completedWith .ok)

/-- 42_aes.md R197 (with R230): with round keys and a round index up to 10, ADDRK adds the round key byte by byte; a round
index above 10 is E_ILLEGAL before anything else (no decoded command has one, assumption log 11). -/
def Obligations.AddrkXorsTheRoundKey : Prop :=
  ∀ (s : State) (rnd : BitVec 4),
    (∀ h : rnd.toNat < 11, s.status.rkv = true →
      ∃ v : Block, exec (.addrk rnd) s = .next (s.withBlock v) ∧
        ∀ j < 16, byteAt v j = byteAt s.block j ^^^ byteAt (s.rk[rnd.toNat]) j) ∧
    (10 < rnd.toNat → exec (.addrk rnd) s = .next (s.completedWith .illegal))

/-! ### CBC commands -/

/-- 43_cbc.md R240, R242, R250, R246: CBCENC with round keys and a length that fits: OBUF gets the IV, then `N = floor(L/16) + 1`
blocks, each the cipher of the padded message's block XOR the block before it; OLEN and IV are written, one draw is taken, and
every byte outside `OBUF[0..OLEN)` and everything else is as before. The IV is the free draw (assumption log 1): this holds for
every value of it. That RK is read, as R242 and R250 say and R246 does not, is the model's reading (assumption log 18). -/
def Obligations.CbcencWritesIvAndChain : Prop :=
  ∀ s : State, s.status.rkv = true → s.ilen.toNat ≤ s.bufBytes → 16 * (s.ilen.toNat / 16 + 2) ≤ s.bufBytes →
    let len := s.ilen.toNat
    let padded := fun (k : Nat) => if k < len then s.byteAt (0x4000 + k) else BitVec.ofNat 8 (16 - len % 16)
    ∃ t : State, exec .cbcenc s = .next t ∧
      { t with mem := s.mem } =
        { s with olen := BitVec.ofNat 32 (16 * (len / 16 + 2)), iv := s.nextDraw, ivSupply := s.ivSupply.tail
                 drawCount := s.drawCount + 1, status := s.status.completed .ok } ∧
      t.blockAt 0x8000 = s.nextDraw ∧
      (∀ j < len / 16 + 1, t.blockAt (0x8000 + 16 * (j + 1)) =
        aesEnc s.rk (mkBlock (fun k => padded (16 * j + k)) ^^^ t.blockAt (0x8000 + 16 * j))) ∧
      ∀ x, x < 0x8000 ∨ 0x8000 + 16 * (len / 16 + 2) ≤ x → t.byteAt x = s.byteAt x

/-- 43_cbc.md R241, R243, R251, R246: CBCDEC with round keys and a whole number of blocks: the decrypted text is, block by block,
the inverse cipher of the payload's block XOR the payload's block before it; its padding is stripped and PADV set if the last
`n` bytes all are `n`, `n` its last byte from 1 to 16, and else it is written whole with PADV = 0; every byte outside
`OBUF[0..OLEN)` and everything else is as before. That RK is read, as R243 and R251 say and R246 does not, is the model's reading (assumption
log 18). -/
def Obligations.CbcdecWritesMessage : Prop :=
  ∀ s : State, s.status.rkv = true → s.ilen.toNat % 16 = 0 → 32 ≤ s.ilen.toNat → s.ilen.toNat ≤ s.bufBytes →
    let size := s.ilen.toNat - 16
    let text := fun (k : Nat) =>
      byteAt (aesDec s.rk (s.blockAt (0x4010 + 16 * (k / 16))) ^^^ s.blockAt (0x4000 + 16 * (k / 16))) (k % 16)
    let n := (text (size - 1)).toNat
    let stripped : Bool := decide (1 ≤ n ∧ n ≤ 16 ∧ ∀ k < n, (text (size - 1 - k)).toNat = n)
    let out := if stripped then size - n else size
    ∃ t : State, exec .cbcdec s = .next t ∧
      { t with mem := s.mem } =
        { s with olen := BitVec.ofNat 32 out, status := { s.status.completed .ok with padv := stripped } } ∧
      (∀ k < out, t.byteAt (0x8000 + k) = text k) ∧
      ∀ x, x < 0x8000 ∨ 0x8000 + out ≤ x → t.byteAt x = s.byteAt x

/-- 43_cbc.md R252: what CBCENC wrote, copied to IBUF with ILEN = OLEN, is decrypted by CBCDEC to the message that was
encrypted, with OLEN its length and PADV = 1, for every draw and every schedule. The spec marks it as derived. -/
def Obligations.CbcRoundTrip : Prop :=
  ∀ s t u : State, s.status.rkv = true → exec .cbcenc s = .next t → t.status.errcode = .ok →
    u.status.rkv = true → u.rk = s.rk → u.params = s.params → u.ilen = t.olen →
    (∀ k < t.olen.toNat, u.byteAt (0x4000 + k) = t.byteAt (0x8000 + k)) →
    ∃ v, exec .cbcdec u = .next v ∧ v.status.errcode = .ok ∧ v.olen = s.ilen ∧ v.status.padv = true ∧
      ∀ k < s.ilen.toNat, v.byteAt (0x8000 + k) = s.byteAt (0x4000 + k)

/-! ### Flags -/

/-- 10_state.md R44: ONCURVE, NONSING and PADV are each written only by ECCHK, ECDISC and CBCDEC, only when that completes with
ERRCODE = 0, and no command reads them: from a state with other values of them, any command leaves the same state, the flag
its successful writer wrote included, but that the flags it did not write keep those other values. -/
def Obligations.ResultFlagsHaveOneWriterAndNoReader : Prop :=
  (∀ (i : Instr) (s t : State), exec i s = .next t →
    ((∀ a, i ≠ .ecchk a) ∨ t.status.errcode ≠ .ok → t.status.oncurve = s.status.oncurve) ∧
    (i ≠ .ecdisc ∨ t.status.errcode ≠ .ok → t.status.nonsing = s.status.nonsing) ∧
    (i ≠ .cbcdec ∨ t.status.errcode ≠ .ok → t.status.padv = s.status.padv)) ∧
  ∀ (i : Instr) (s t : State) (f g h : Bool), exec i s = .next t →
    exec i { s with status := { s.status with oncurve := f, nonsing := g, padv := h } } =
      .next { t with status := { t.status with
        oncurve := if (∃ a, i = .ecchk a) ∧ t.status.errcode = .ok then t.status.oncurve else f
        nonsing := if i = .ecdisc ∧ t.status.errcode = .ok then t.status.nonsing else g
        padv := if i = .cbcdec ∧ t.status.errcode = .ok then t.status.padv else h } }

/-- 10_state.md R39, R48, 60_exceptions.md R300: the word the host reads at STATUS, bit by bit; the reserved bits read 0. -/
def Obligations.StatusWordLayout : Prop :=
  ∀ st : Status,
    st.toWord.getLsbD 0 = st.busy ∧ st.toWord.getLsbD 1 = st.done ∧ st.toWord.getLsbD 2 = st.err ∧
    st.toWord.getLsbD 3 = false ∧
    st.toWord.toNat / 16 % 16 =
      (match st.errcode with
        | .ok => 0 | .illegal => 1 | .modulus => 2 | .range => 3 | .noroot => 4 | .nokey => 5 | .length => 6 | .inf => 7) ∧
    st.toWord.getLsbD 8 = st.oncurve ∧ st.toWord.getLsbD 9 = st.nonsing ∧ st.toWord.getLsbD 10 = st.padv ∧
    st.toWord.getLsbD 11 = st.rkv ∧ st.toWord.toNat / 2 ^ 12 % 16 = 0 ∧ st.toWord.getLsbD 16 = st.busyerr ∧
    st.toWord.toNat / 2 ^ 17 = 0

/-- 10_state.md R37, 60_exceptions.md R307: IRQ is IE and DONE: after any completion it is IE, after an accepted issue it is low,
and after reset it is low. -/
def Obligations.InterruptFollowsCompletion : Prop :=
  (∀ (i : Instr) (s t : State), exec i s = .next t → t.irq = s.ctrl.ie) ∧
  (∀ (s t : State) (w : Word), s.status.busy = false → step (s.facingWrite 0x00C w) = .next t → t.irq = false) ∧
  State.reset.irq = false ∧ ∀ (s t : State), step (s.facing (.host .reset)) = .next t → t.irq = false

/-! ### Host port -/

/-- 20_memory.md R66, R71: a host read, of any width at any address, in any state, changes no state; only the port's answer
(the model's own field) and the list of events move on. -/
def Obligations.ReadsHaveNoSideEffects : Prop :=
  ∀ (s : State) (addr : Nat) (width : Width),
    ∃ answer, step (s.facing (.host (.read addr width))) = .next { s with response := answer }

/-- 20_memory.md R62, R63, R66, R71, 10_state.md R46: what a 32-bit read answers at every mapped register offset, BUSY or not: the
word `j` of a register is its bits `[32j+31 : 32j]`, CMD reads 0 and ID is constant. -/
def Obligations.RegisterReadsFollowTheMap : Prop :=
  ∀ s : State,
    let reads := fun (off value : Nat) => ∃ w : Word, w.toNat = value ∧
      step (s.facingRead off) = .next { s with response := .data w }
    let part := fun (v j : Nat) => v / 2 ^ (32 * j) % 2 ^ 32
    reads 0x0000 0x53530007 ∧ reads 0x0004 s.ctrl.ie.toNat ∧ reads 0x0008 s.status.toWord.toNat ∧ reads 0x000C 0 ∧
    reads 0x0010 s.ilen.toNat ∧ reads 0x0014 s.olen.toNat ∧
    (∀ j < 8, reads (0x0100 + 4 * j) (part s.p.toNat j) ∧ reads (0x0120 + 4 * j) (part s.a.toNat j) ∧
      reads (0x0140 + 4 * j) (part s.b.toNat j)) ∧
    (∀ (i : RIdx), ∀ j < 8, reads (0x0200 + 0x20 * i + 4 * j) (part s.r[i].toNat j)) ∧
    (∀ i : QIdx, reads (0x0400 + 0x80 * i) s.q[i].inf.toNat ∧
      ∀ j < 8, reads (0x0420 + 0x80 * i + 4 * j) (part s.q[i].x.toNat j) ∧
        reads (0x0440 + 0x80 * i + 4 * j) (part s.q[i].y.toNat j)) ∧
    (∀ j < 4, reads (0x0600 + 4 * j) (part s.key.toNat j) ∧ reads (0x0610 + 4 * j) (part s.block.toNat j) ∧
      reads (0x0620 + 4 * j) (part s.iv.toNat j)) ∧
    ∀ i : Fin 11, ∀ j < 4, reads (0x0700 + 0x10 * i + 4 * j) (part s.rk[i].toNat j)

/-- 20_memory.md R61, R65: an access inside the window that is not 32 bits wide, not at a multiple of 4, or at an offset that
R62 does not list (buffer offsets at or above BUF_BYTES among them) gets a bus error and changes no state. That a write at
such an offset gets it while BUSY = 1 too, and sets no BUSYERR, is the model's reading of R61 and R65 against R70 (assumption
log 6). -/
def Obligations.BadAccessesGetBusErrors : Prop :=
  ∀ (s : State) (off : Nat) (width : Width) (w : Word), off < 0x10000 →
    (width ≠ .bits32 ∨ off % 4 ≠ 0 ∨
      ¬ (off ≤ 0x0017 ∨ (0x0100 ≤ off ∧ off ≤ 0x015F) ∨ (0x0200 ≤ off ∧ off ≤ 0x02FF) ∨
        (0x0400 ≤ off ∧ off ≤ 0x05FF ∧ (off % 0x80 < 4 ∨ (0x20 ≤ off % 0x80 ∧ off % 0x80 < 0x60))) ∨
        (0x0600 ≤ off ∧ off ≤ 0x062F) ∨ (0x0700 ≤ off ∧ off ≤ 0x07AF) ∨
        (0x4000 ≤ off ∧ off < 0x4000 + s.bufBytes) ∨ (0x8000 ≤ off ∧ off < 0x8000 + s.bufBytes))) →
    step (s.facing (.host (.read (s.params.coreBase + off) width))) = .next { s with response := .busError } ∧
    step (s.facing (.host (.write (s.params.coreBase + off) width w))) = .next { s with response := .busError }

/-- 20_memory.md R62, R63, R68, 10_state.md R45, R48: while BUSY = 0 a write to a word of a read-write register replaces that
word and leaves every other word of it and everything else; a write to KEY also clears RKV; of an `inf` word only bit 0 is
stored. -/
def Obligations.RegisterWritesReplaceOneWord : Prop :=
  ∀ (s : State) (w : Word), s.status.busy = false →
    (∀ j < 8,
      (∃ v, ReplacesWord s.p v j w ∧ step (s.facingWrite (0x0100 + 4 * j) w) = .next { s with p := v, response := .written }) ∧
      (∃ v, ReplacesWord s.a v j w ∧ step (s.facingWrite (0x0120 + 4 * j) w) = .next { s with a := v, response := .written }) ∧
      (∃ v, ReplacesWord s.b v j w ∧ step (s.facingWrite (0x0140 + 4 * j) w) = .next { s with b := v, response := .written }) ∧
      (∀ i : RIdx, ∃ v, ReplacesWord s.r[i] v j w ∧
        step (s.facingWrite (0x0200 + 0x20 * i + 4 * j) w) = .next { s with r := s.r.set i v, response := .written }) ∧
      ∀ i : QIdx, ∃ v, ReplacesWord s.q[i].x v j w ∧ ∃ u, ReplacesWord s.q[i].y u j w ∧
        step (s.facingWrite (0x0420 + 0x80 * i + 4 * j) w) =
          .next { s with q := s.q.set i { s.q[i] with x := v }, response := .written } ∧
        step (s.facingWrite (0x0440 + 0x80 * i + 4 * j) w) =
          .next { s with q := s.q.set i { s.q[i] with y := u }, response := .written }) ∧
    (∀ i : QIdx, step (s.facingWrite (0x0400 + 0x80 * i) w) =
      .next { s with q := s.q.set i { s.q[i] with inf := decide (w.toNat % 2 = 1) }, response := .written }) ∧
    (∀ j < 4,
      (∃ v, ReplacesWord s.key v j w ∧ step (s.facingWrite (0x0600 + 4 * j) w) =
        .next { s with key := v, status := { s.status with rkv := false }, response := .written }) ∧
      (∃ v, ReplacesWord s.block v j w ∧ step (s.facingWrite (0x0610 + 4 * j) w) =
        .next { s with block := v, response := .written })) ∧
    step (s.facingWrite 0x0010 w) = .next { s with ilen := w, response := .written }

/-- 20_memory.md R62, R64, R69: while BUSY = 0 a write to a word of IBUF stores its four bytes, byte `k` of the word at offset
`k`, and changes no other byte of IBUF or OBUF and nothing else; a read of a buffer word, BUSY or not, answers its four bytes. -/
def Obligations.BufferWordsAreFourBytes : Prop :=
  ∀ (s : State) (m : Nat) (w : Word), 4 * m < s.bufBytes →
    (s.status.busy = false → ∃ mem', step (s.facingWrite (0x4000 + 4 * m) w) =
        .next { s with mem := mem', response := .written } ∧
      ∀ x, State.byteAt { s with mem := mem' } x =
        if 0x4000 + 4 * m ≤ x ∧ x < 0x4000 + 4 * m + 4 then byteAt w (x - (0x4000 + 4 * m)) else s.byteAt x) ∧
    ∀ base ∈ [0x4000, 0x8000], ∃ v : Word, step (s.facingRead (base + 4 * m)) = .next { s with response := .data v } ∧
      ∀ k < 4, byteAt v k = s.byteAt (base + 4 * m + k)

/-- 20_memory.md R67: while BUSY = 0 a write to a read-only location (ID, OLEN, IV, RK, OBUF) is ignored with a normal
response. -/
def Obligations.ReadOnlyWritesAreIgnored : Prop :=
  ∀ (s : State) (off : Nat) (w : Word), s.status.busy = false → off % 4 = 0 →
    (off = 0x0000 ∨ off = 0x0014 ∨ (0x0620 ≤ off ∧ off ≤ 0x062F) ∨ (0x0700 ≤ off ∧ off ≤ 0x07AF) ∨
      (0x8000 ≤ off ∧ off < 0x8000 + s.bufBytes)) →
    step (s.facingWrite off w) = .next { s with response := .written }

/-- 10_state.md R38, R39, 20_memory.md R68, R70: writes to CTRL and STATUS take effect whether BUSY or not: CTRL takes bit 0 as
IE; a 1 in bit 1 of a STATUS write clears DONE, a 1 in bit 16 clears BUSYERR, and no other bit does anything. -/
def Obligations.ControlWritesTakeEffectAlways : Prop :=
  ∀ (s : State) (w : Word),
    step (s.facingWrite 0x0004 w) = .next { s with ctrl := { ie := decide (w.toNat % 2 = 1) }, response := .written } ∧
    step (s.facingWrite 0x0008 w) = .next { s with
      status := { s.status with
        done := if w.toNat / 2 % 2 = 1 then false else s.status.done
        busyerr := if w.toNat / 2 ^ 16 % 2 = 1 then false else s.status.busyerr }
      response := .written }

/-- 20_memory.md R70: while BUSY = 1 a write to any mapped offset other than CTRL and STATUS is dropped: it sets BUSYERR, gets a
normal response and changes nothing else. That this takes in the read-only offsets (ID, OLEN, IV, RK, OBUF), whose writes R67
says are ignored, is the model's reading of R70 (assumption log 7, DEDUCED). -/
def Obligations.BusyWritesAreDropped : Prop :=
  ∀ (s : State) (off : Nat) (w : Word), s.status.busy = true → off % 4 = 0 →
    (off ∈ [0x0000, 0x000C, 0x0010, 0x0014] ∨ (0x0100 ≤ off ∧ off ≤ 0x015F) ∨ (0x0200 ≤ off ∧ off ≤ 0x02FF) ∨
      (0x0400 ≤ off ∧ off ≤ 0x05FF ∧ (off % 0x80 = 0 ∨ (0x20 ≤ off % 0x80 ∧ off % 0x80 < 0x60))) ∨
      (0x0600 ≤ off ∧ off ≤ 0x062F) ∨ (0x0700 ≤ off ∧ off ≤ 0x07AF) ∨
      (0x4000 ≤ off ∧ off < 0x4000 + s.bufBytes) ∨ (0x8000 ≤ off ∧ off < 0x8000 + s.bufBytes)) →
    step (s.facingWrite off w) = .next { s with status := { s.status with busyerr := true }, response := .written }

/-! ### Reset and invariants -/

/-- 70_reset_and_hazards.md R340, 10_state.md R40: a reset, at any time, puts every piece of the block's state at its value of the
table, abandoning a pending command; each byte of IBUF and OBUF is a new free draw (assumption log 2). That the parameters and
the events to come stay is the model's choice (assumption log 10). -/
def Obligations.ResetPutsTheTable : Prop :=
  ∀ s : State, ∃ t, step (s.facing (.host .reset)) = .next t ∧
    t.p = 0 ∧ t.a = 0 ∧ t.b = 0 ∧ (∀ i : RIdx, t.r[i] = 0) ∧
    (∀ j : QIdx, t.q[j] = { inf := true, x := 0, y := 0 }) ∧ t.key = 0 ∧ t.block = 0 ∧ t.iv = 0 ∧
    (∀ i : Fin 11, t.rk[i] = 0) ∧ t.ilen = 0 ∧ t.olen = 0 ∧ t.latch = 0 ∧ t.ctrl.ie = false ∧ t.status.toWord = 0 ∧
    t.irq = false ∧ (∀ x, t.byteAt x = Config.resetByte (s.resetCount + 1) x) ∧ t.params = s.params ∧ t.turns = s.turns

/-- 10_state.md R40: the state after reset is consistent. -/
def Obligations.ResetIsConsistent : Prop := State.reset.Consistent

/-- 10_state.md R42, R43, R45, R33, 20_memory.md R65: every event keeps the state consistent, from every consistent state: DONE and
BUSY are never both 1, ERR says whether ERRCODE is not 0, RKV = 1 means RK is the schedule of KEY, OLEN fits OBUF, and the
memory keeps its canonical form inside the buffers. -/
def Obligations.EveryStepKeepsConsistency : Prop :=
  ∀ s t : State, s.Consistent → step s = .next t → t.Consistent

/-- 00_scope.md R5: no event changes the parameters CORE_BASE and BUF_BYTES (which State holds by the model's choice, assumption
log 5). -/
def Obligations.ParametersNeverChange : Prop := ∀ s t : State, step s = .next t → t.params = s.params
end

