-- ==== Sys2Proof/Laws/Bytes.lean ====
section
/-! SUPPORT. What the byte and word accessors of registers do (spec/00_scope.md R7, R8; spec/20_memory.md R63, R64). -/

namespace Sys2Proof.Machine

@[simp] theorem bytesOf_length {n : Nat} (k : Nat) (v : BitVec n) : (bytesOf k v).length = k := by simp [bytesOf]

@[simp] theorem blk_length (v : Block) : (blk v).length = 16 := bytesOf_length 16 v

theorem bytesOf_getD {n : Nat} (k : Nat) (v : BitVec n) (i : Nat) (h : i < k) : (bytesOf k v).getD i 0 = byteAt v i := by
  simp [bytesOf, List.getD, h]

/-- Byte `i` of the packed number is entry `i` of the list. -/
theorem packBytes_byte (bs : List Byte) (i : Nat) : packBytes bs / 256 ^ i % 256 = (bs.getD i 0).toNat := by
  induction bs generalizing i with
  | nil => simp [packBytes]
  | cons x xs ih =>
    have hx : x.toNat < 256 := x.isLt
    cases i with
    | zero => simp [packBytes]; omega
    | succ i =>
      have : packBytes (x :: xs) / 256 ^ (i + 1) = packBytes xs / 256 ^ i := by
        rw [Nat.pow_succ', ← Nat.div_div_eq_div_mul]
        congr 1
        simp only [packBytes]
        omega
      rw [this, ih]
      simp

theorem packBytes_lt (bs : List Byte) : packBytes bs < 256 ^ bs.length := by
  induction bs with
  | nil => simp [packBytes]
  | cons x xs ih =>
    have hx : x.toNat < 256 := x.isLt
    simp only [packBytes, List.length_cons, Nat.pow_succ']
    omega

theorem byteAt_toNat {n : Nat} (v : BitVec n) (i : Nat) : (byteAt v i).toNat = v.toNat / 256 ^ i % 256 := by
  simp [byteAt, Nat.shiftRight_eq_div_pow, Nat.pow_mul]

/-- Byte `i` of a register made from bytes (R64). -/
theorem byteAt_ofNat_packBytes (n : Nat) (bs : List Byte) (h : 8 * bs.length ≤ n) (i : Nat) :
    byteAt (BitVec.ofNat n (packBytes bs)) i = bs.getD i 0 := by
  apply BitVec.eq_of_toNat_eq
  have hlt : packBytes bs < 2 ^ n :=
    calc packBytes bs < 256 ^ bs.length := packBytes_lt bs
      _ = 2 ^ (8 * bs.length) := by rw [Nat.pow_mul]
      _ ≤ 2 ^ n := Nat.pow_le_pow_right (by decide) h
  rw [byteAt_toNat, BitVec.toNat_ofNat, Nat.mod_eq_of_lt hlt, packBytes_byte]

theorem byteAt_reg (bs : List Byte) (h : bs.length ≤ 16) (i : Nat) : byteAt (reg bs) i = bs.getD i 0 :=
  byteAt_ofNat_packBytes 128 bs (by omega) i

/-- Byte `i` of `mkBlock f` is `f i`. -/
@[simp] theorem byteAt_mkBlock (f : Nat → Byte) (i : Nat) (h : i < 16) : byteAt (mkBlock f) i = f i := by
  rw [mkBlock, byteAt_reg _ (by simp)]
  simp [List.getD, h]

/-- Two registers of `8 * k` bits with the same bytes are equal. -/
theorem eq_of_byteAt_eq {n : Nat} (k : Nat) (hn : n ≤ 8 * k) (u v : BitVec n)
    (h : ∀ i < k, byteAt u i = byteAt v i) : u = v := by
  apply BitVec.eq_of_getLsbD_eq
  intro j hj
  have hb := congrArg (fun x => BitVec.getLsbD x (j % 8)) (h (j / 8) (by omega))
  simp only [byteAt, BitVec.getLsbD_extractLsb'] at hb
  have h8 : j % 8 < 8 := Nat.mod_lt _ (by decide)
  rwa [show 8 * (j / 8) + j % 8 = j by omega, decide_eq_true h8, Bool.true_and, Bool.true_and] at hb

theorem block_ext (u v : Block) (h : ∀ i < 16, byteAt u i = byteAt v i) : u = v := eq_of_byteAt_eq 16 (by omega) u v h

@[simp] theorem reg_blk (v : Block) : reg (blk v) = v := by
  apply block_ext
  intro i hi
  rw [byteAt_reg _ (by simp), blk, bytesOf_getD _ _ _ hi]

theorem blk_reg (bs : List Byte) (h : bs.length = 16) : blk (reg bs) = bs := by
  apply List.ext_getElem
  · simp [h]
  · intro i h1 h2
    have := byteAt_reg bs (by omega) i
    simp only [blk, bytesOf, List.getElem_map, List.getElem_range, this]
    simp [List.getD, h2]

theorem byteAt_xor {n : Nat} (u v : BitVec n) (i : Nat) : byteAt (u ^^^ v) i = byteAt u i ^^^ byteAt v i := by
  apply BitVec.eq_of_getLsbD_eq
  intro j hj
  simp [byteAt, hj]

/-- Writing one word of a register leaves its other words and gives the written one (R63). -/
theorem getWord_setWord {n : Nat} (v : BitVec n) (j k : Nat) (w : Word) (hj : 32 * (j + 1) ≤ n) :
    getWord (setWord v j w) k = if k = j then w else getWord v k := by
  have hmask : ∀ m, (0xFFFFFFFF#32).getLsbD m = decide (m < 32) := fun m => by
    have : (0xFFFFFFFF#32) = BitVec.allOnes 32 := by decide
    rw [this, BitVec.getLsbD_allOnes]
  apply BitVec.eq_of_getLsbD_eq
  intro i hi
  simp only [getWord, setWord, BitVec.getLsbD_extractLsb', BitVec.getLsbD_or, BitVec.getLsbD_and, BitVec.getLsbD_not,
    BitVec.getLsbD_shiftLeft, BitVec.getLsbD_setWidth, hmask]
  by_cases hkj : k = j
  · subst hkj
    have e : 32 * k + i - 32 * k = i := by omega
    have h1 : 32 * k + i < n := by omega
    have h2 : ¬ (32 * k + i < 32 * k) := by omega
    have h3 : i < n := by omega
    simp [e, h1, h2, h3, hi]
  · simp only [hkj, if_false, BitVec.getLsbD_extractLsb']
    rcases Nat.lt_or_gt_of_ne hkj with h | h
    · have : 32 * k + i < 32 * j := by omega
      have hn : 32 * k + i < n := by omega
      simp [this, hn, hi]
    · have h2 : ¬ (32 * k + i - 32 * j < 32) := by omega
      have hw : w.getLsbD (32 * k + i - 32 * j) = false := BitVec.getLsbD_of_ge _ _ (by omega)
      by_cases hn : 32 * k + i < n
      · simp [h2, hw, hn, hi]
      · have : v.getLsbD (32 * k + i) = false := BitVec.getLsbD_of_ge _ _ (by omega)
        simp [hw, hn, this]

end Sys2Proof.Machine
end

