-- ==== Sys2Proof/Laws/Aes.lean ====
section
/-! SUPPORT. What the AES operations do to one byte or one cell of a block, and which table inverts which (spec/42_aes.md
R191 to R197). -/

namespace Sys2Proof.Machine

theorem byteAt_subBytes (s : Block) (i : Nat) (h : i < 16) : byteAt (subBytes s) i = sbox (byteAt s i) :=
  byteAt_mkBlock _ i h

theorem byteAt_invSubBytes (s : Block) (i : Nat) (h : i < 16) : byteAt (invSubBytes s) i = isbox (byteAt s i) :=
  byteAt_mkBlock _ i h

/-- "`ISBOX[SBOX[u]] = u` for every byte `u`" (R193). -/
theorem isbox_sbox (u : Byte) : isbox (sbox u) = u := by revert u; decide +kernel

theorem sbox_isbox (u : Byte) : sbox (isbox u) = u := by revert u; decide +kernel

/-- The cell of a state built from its cells (R191). -/
theorem cell_mkState (f : Nat → Nat → Byte) (row col : Nat) (hr : row < 4) (hc : col < 4) :
    cell (mkState f) row col = f row col := by
  rw [cell, mkState, byteAt_mkBlock _ _ (by omega), show (row + 4 * col) % 4 = row by omega,
    show (row + 4 * col) / 4 = col by omega]

/-- Two blocks with the same cells are equal. -/
theorem block_ext_cell (u v : Block) (h : ∀ row < 4, ∀ col < 4, cell u row col = cell v row col) : u = v := by
  apply block_ext
  intro i hi
  have := h (i % 4) (by omega) (i / 4) (by omega)
  rwa [cell, cell, show i % 4 + 4 * (i / 4) = i by omega] at this

theorem cell_shiftRows (s : Block) (row col : Nat) (hr : row < 4) (hc : col < 4) :
    cell (shiftRows s) row col = cell s row ((col + row) % 4) := cell_mkState _ _ _ hr hc

theorem cell_invShiftRows (s : Block) (row col : Nat) (hr : row < 4) (hc : col < 4) :
    cell (invShiftRows s) row col = cell s row ((col + 4 - row) % 4) := cell_mkState _ _ _ hr hc

/-- One cell of a column product (R196). -/
theorem cell_mulColumns (matrix : List (List Byte)) (s : Block) (row col : Nat) (hr : row < 4) (hc : col < 4) :
    cell (mulColumns matrix s) row col =
      gmul ((matrix.getD row []).getD 0 0) (cell s 0 col) ^^^ gmul ((matrix.getD row []).getD 1 0) (cell s 1 col) ^^^
        gmul ((matrix.getD row []).getD 2 0) (cell s 2 col) ^^^ gmul ((matrix.getD row []).getD 3 0) (cell s 3 col) :=
  cell_mkState _ _ _ hr hc

theorem byteAt_addRoundKey (s k : Block) (i : Nat) : byteAt (addRoundKey s k) i = byteAt s i ^^^ byteAt k i :=
  byteAt_xor s k i

/-- AddRoundKey "is its own inverse" (R197). -/
@[simp] theorem addRoundKey_twice (s k : Block) : addRoundKey (addRoundKey s k) k = s := by
  simp [addRoundKey]

/-- `xtime` and `gmul` add up over XOR (R190). -/
theorem xtime_xor (u v : Byte) : xtime (u ^^^ v) = xtime u ^^^ xtime v := by
  have hshift : (u ^^^ v) <<< 1 = (u <<< 1) ^^^ (v <<< 1) := BitVec.shiftLeft_xor_distrib u v 1
  simp only [xtime, hshift, BitVec.getLsbD_xor]
  generalize u <<< 1 = x
  generalize v <<< 1 = y
  cases u.getLsbD 7 <;> cases v.getLsbD 7 <;> simp
  · rw [BitVec.xor_assoc]
  · rw [BitVec.xor_assoc, BitVec.xor_comm y, ← BitVec.xor_assoc]
  · rw [BitVec.xor_assoc x, BitVec.xor_comm 27#8 (y ^^^ 27#8), BitVec.xor_assoc y]
    simp

theorem gmulLoop_xor (n : Nat) (c u v : Byte) : gmulLoop n c (u ^^^ v) = gmulLoop n c u ^^^ gmulLoop n c v := by
  induction n generalizing c u v with
  | zero => simp [gmulLoop]
  | succ n ih =>
    simp only [gmulLoop, xtime_xor, ih]
    cases c.getLsbD 0
    · simp
    · simp only [if_true]
      rw [BitVec.xor_assoc, ← BitVec.xor_assoc v, BitVec.xor_comm v, BitVec.xor_assoc (gmulLoop n (c >>> 1) (xtime u)),
        ← BitVec.xor_assoc u]

theorem gmul_xor (c u v : Byte) : gmul c (u ^^^ v) = gmul c u ^^^ gmul c v := gmulLoop_xor 8 c u v

/-- The bytes of a word built from four (R198). -/
theorem byteAt_mkQuad (x0 x1 x2 x3 : Byte) (m : Nat) : byteAt (mkQuad x0 x1 x2 x3) m = [x0, x1, x2, x3].getD m 0 :=
  byteAt_ofNat_packBytes 32 _ (by simp) m

theorem expandWords_length (k : Block) (n : Nat) : (expandWords k n).length = n + 4 := by
  induction n with
  | zero => rfl
  | succ n ih =>
    simp only [expandWords]
    split
    · rename_i h; rw [h] at ih; simp at ih ⊢; omega
    · rename_i hshort
      rcases hw : expandWords k n with _ | ⟨w1, _ | ⟨w2, _ | ⟨w3, _ | ⟨w4, older⟩⟩⟩⟩
      · rw [hw] at ih; simp at ih
      · rw [hw] at ih; simp at ih
      · rw [hw] at ih; simp at ih
      · rw [hw] at ih; simp at ih
      · exact absurd hw (hshort w1 w2 w3 w4 older)

theorem keyred_toNat (x : Field) : (keyred x).toNat = x.toNat % 2 ^ 128 := by simp [keyred]

end Sys2Proof.Machine
end

