-- ==== Sys2Proof/Laws/Arith.lean ====
section
/-! SUPPORT. What the arithmetic helpers compute: the fast definitions equal the plain formulas of spec/40_modular.md. -/

namespace Sys2Proof.Machine

theorem modexpLoop_eq (fuel b e P : Nat) (h : e < 2 ^ fuel) : modexpLoop fuel b e P = b ^ e % P := by
  induction fuel generalizing b e with
  | zero =>
    have : e = 0 := by simpa using h
    simp [modexpLoop, this]
  | succ fuel ih =>
    have he : e / 2 < 2 ^ fuel := by rw [Nat.pow_succ] at h; omega
    have hsq : (b * b % P) ^ (e / 2) % P = b ^ (2 * (e / 2)) % P := by
      rw [← Nat.pow_mod, ← Nat.pow_two, ← Nat.pow_mul]
    simp only [modexpLoop, ih _ _ he, hsq]
    split
    · rename_i h0; simp [h0]
    · split
      · rename_i h1
        rw [Nat.mul_mod, Nat.mod_mod, ← Nat.mul_mod, ← Nat.pow_succ', show (2 * (e / 2)).succ = e by omega]
      · rename_i h1
        rw [show 2 * (e / 2) = e by omega]

/-- `modexp(b, e, P)` is `b^e mod P` (R123). -/
theorem modexp_eq (b e P : Nat) : modexp b e P = b ^ e % P :=
  modexpLoop_eq _ _ _ _ Nat.lt_log2_self

/-- `inv(d) = d^(P-2) mod P` (R124). -/
theorem modinv_eq (d P : Nat) : modinv d P = d ^ (P - 2) % P := by
  rw [modinv, modexp_eq, ← Nat.pow_mod]

theorem legendre_eq (n P : Nat) : legendre n P = n ^ ((P - 1) / 2) % P := modexp_eq _ _ _

/-- `leastFrom` finds the least integer of the interval with the property. -/
theorem leastFrom_some (prop : Nat → Bool) (count k n : Nat) (h : leastFrom prop count k = some n) :
    k ≤ n ∧ n < k + count ∧ prop n = true ∧ ∀ j, k ≤ j → j < n → prop j = false := by
  induction count generalizing k with
  | zero => simp [leastFrom] at h
  | succ count ih =>
    simp only [leastFrom] at h
    split at h
    · rename_i hp
      have : k = n := by simpa using h
      subst this
      exact ⟨le_refl _, by omega, hp, fun j h1 h2 => by omega⟩
    · rename_i hp
      obtain ⟨h1, h2, h3, h4⟩ := ih _ h
      refine ⟨by omega, by omega, h3, fun j hj1 hj2 => ?_⟩
      by_cases hjk : j = k
      · subst hjk; simpa using hp
      · exact h4 j (by omega) hj2

/-- `leastFrom` answers none when no integer of the interval has the property. -/
theorem leastFrom_none (prop : Nat → Bool) (count k : Nat) (h : leastFrom prop count k = none) :
    ∀ j, k ≤ j → j < k + count → prop j = false := by
  induction count generalizing k with
  | zero => intro j h1 h2; omega
  | succ count ih =>
    simp only [leastFrom] at h
    split at h
    · simp at h
    · rename_i hp
      intro j h1 h2
      by_cases hjk : j = k
      · subst hjk; simpa using hp
      · exact ih _ h j (by omega) (by omega)

/-- `oddPart` splits off the powers of two: `n = q * 2^s` with `q` odd (R126). -/
theorem oddPart_spec (fuel n : Nat) (hn : 0 < n) (h : n < 2 ^ fuel) :
    n = (oddPart fuel n).1 * 2 ^ (oddPart fuel n).2 ∧ (oddPart fuel n).1 % 2 = 1 := by
  induction fuel generalizing n with
  | zero => omega
  | succ fuel ih =>
    rw [oddPart]
    split
    · rename_i h2
      obtain ⟨h3, h4⟩ := ih (n / 2) (by omega) (by rw [Nat.pow_succ] at h; omega)
      refine ⟨?_, h4⟩
      show n = (oddPart fuel (n / 2)).1 * 2 ^ ((oddPart fuel (n / 2)).2 + 1)
      rw [Nat.pow_succ', ← Nat.mul_assoc, Nat.mul_right_comm, ← h3]
      omega
    · rename_i h2
      exact ⟨by simp, by simpa using h2⟩

/-- `intMod` is the Euclidean remainder, in `[0, P-1]` (R6, R122). -/
theorem intMod_cast (u : Int) (P : Nat) (h : 0 < P) : (intMod u P : Int) = u % P := by
  rw [intMod, Int.toNat_of_nonneg (Int.emod_nonneg _ (by omega))]

theorem intMod_lt (u : Int) (P : Nat) (h : 0 < P) : intMod u P < P := by
  have h1 := intMod_cast u P h
  have h2 := Int.emod_lt_of_pos u (b := (P : Int)) (by omega)
  omega

end Sys2Proof.Machine
end

