-- ==== Sys2Proof/Laws/Cbc.lean ====
section
/-! SUPPORT. Lengths and cases of the CBC operations (spec/43_cbc.md R240 to R245). -/

namespace Sys2Proof.Machine

/-- The padded length (R240). -/
theorem pad_length (m : List Byte) : (pad m).length = 16 * (m.length / 16 + 1) := by
  simp only [pad, List.length_append, List.length_replicate]
  omega

/-- Byte `k` of a padded message (R240). -/
theorem pad_getD (m : List Byte) (k : Nat) (h : k < 16 * (m.length / 16 + 1)) :
    (pad m).getD k 0 = if k < m.length then m.getD k 0 else BitVec.ofNat 8 (16 - m.length % 16) := by
  simp only [pad]
  by_cases hk : k < m.length
  · rw [if_pos hk, List.getD_append _ _ _ _ hk]
  · rw [if_neg hk, List.getD_append_right _ _ _ _ (by omega), List.getD_replicate _ (by omega)]

/-- Everything `unpad` can answer (R241). -/
theorem unpad_cases (d : List Byte) :
    let n := (d.getD (d.length - 1) 0).toNat
    (1 ≤ n ∧ n ≤ 16 ∧ (∀ x ∈ d.drop (d.length - n), x.toNat = n) ∧ unpad d = (d.take (d.length - n), true)) ∨
    (¬ (1 ≤ n ∧ n ≤ 16 ∧ ∀ x ∈ d.drop (d.length - n), x.toNat = n) ∧ unpad d = (d, false)) := by
  intro n
  have hall : ((d.drop (d.length - n)).all fun x => x.toNat == n) = true ↔ ∀ x ∈ d.drop (d.length - n), x.toNat = n := by
    simp
  by_cases h : 1 ≤ n ∧ n ≤ 16 ∧ ∀ x ∈ d.drop (d.length - n), x.toNat = n
  · refine .inl ⟨h.1, h.2.1, h.2.2, ?_⟩
    show (if 1 ≤ n ∧ n ≤ 16 ∧ ((d.drop (d.length - n)).all fun x => x.toNat == n) then _ else _) = _
    rw [if_pos ⟨h.1, h.2.1, hall.2 h.2.2⟩]
  · refine .inr ⟨h, ?_⟩
    show (if 1 ≤ n ∧ n ≤ 16 ∧ ((d.drop (d.length - n)).all fun x => x.toNat == n) then _ else _) = _
    rw [if_neg fun hh => h ⟨hh.1, hh.2.1, hall.1 hh.2.2⟩]

@[simp] theorem toBlocks_length (n : Nat) (s : List Byte) : (toBlocks n s).length = n := by
  induction n generalizing s with
  | zero => rfl
  | succ n ih => simp [toBlocks, ih]

@[simp] theorem cbcEncBlocks_length (rk : Vector Block 11) (prev : Block) (bs : List Block) :
    (cbcEncBlocks rk prev bs).length = bs.length := by
  induction bs generalizing prev with
  | nil => rfl
  | cons x xs ih => simp [cbcEncBlocks, ih]

@[simp] theorem cbcDecBlocks_length (rk : Vector Block 11) (prev : Block) (bs : List Block) :
    (cbcDecBlocks rk prev bs).length = bs.length := by
  induction bs generalizing prev with
  | nil => rfl
  | cons c cs ih => simp [cbcDecBlocks, ih]

@[simp] theorem ofBlocks_length (bs : List Block) : (ofBlocks bs).length = 16 * bs.length := by
  induction bs with
  | nil => rfl
  | cons x xs ih => simp only [ofBlocks, List.flatMap_cons, List.length_append, blk_length, List.length_cons] at ih ⊢; omega

/-- Blocks written out and read again are the blocks. -/
theorem toBlocks_ofBlocks (bs : List Block) (rest : List Byte) : toBlocks bs.length (ofBlocks bs ++ rest) = bs := by
  induction bs with
  | nil => rfl
  | cons x xs ih =>
    have h : ofBlocks (x :: xs) ++ rest = blk x ++ (ofBlocks xs ++ rest) := by simp [ofBlocks]
    rw [h, List.length_cons, toBlocks, List.take_left' (blk_length x), List.drop_left' (blk_length x), reg_blk, ih]

/-- The length of CBCENC's output (R244). -/
theorem cbcEnc_length (rk : Vector Block 11) (m : List Byte) (iv : Block) :
    (cbcEnc rk (pad m) iv).length = 16 * (m.length / 16 + 2) := by
  simp only [cbcEnc, List.length_append, blk_length, ofBlocks_length, cbcEncBlocks_length, toBlocks_length, pad_length]
  omega

/-- The length of the decrypted text (R243). -/
theorem cbcDec_length (rk : Vector Block 11) (pl : List Byte) : (cbcDec rk pl).length = 16 * (pl.length / 16 - 1) := by
  simp [cbcDec]

theorem encLengthBad_iff (bufBytes len : Nat) :
    encLengthBad bufBytes len = true ↔ bufBytes < len ∨ bufBytes < 16 * (len / 16 + 2) := by simp [encLengthBad]

theorem decLengthBad_iff (bufBytes len : Nat) :
    decLengthBad bufBytes len = true ↔ len % 16 ≠ 0 ∨ len < 32 ∨ bufBytes < len := by
  simp [decLengthBad, or_assoc]

end Sys2Proof.Machine
end

