-- ==== Sys2Proof/Laws/Curve.lean ====
section
/-! SUPPORT. What the point operations answer, case by case (spec/41_ecc.md R150 to R160). -/

namespace Sys2Proof.Machine

@[simp] theorem padd_inf_left (P A : Nat) (pt : Point) : padd P A .inf pt = pt := by cases pt <;> rfl

@[simp] theorem padd_inf_right (P A : Nat) (pt : Point) : padd P A pt .inf = pt := by cases pt <;> rfl

/-- Inverse points (R151). -/
theorem padd_inverse (P A x y1 y2 : Nat) (h : y1 = (P - y2) % P) : padd P A (.fin x y1) (.fin x y2) = .inf := by
  simp [padd, h]

/-- The doubling branch (R151). -/
theorem padd_double (P A x y : Nat) (h1 : y ≠ (P - y) % P) (h2 : y ≠ 0) :
    padd P A (.fin x y) (.fin x y) = chordPoint P (tangentSlope P A x y) x y x := by
  simp [padd, h1, h2]

/-- The general branch: different points that are not inverses (R151). -/
theorem padd_chord (P A x1 y1 x2 y2 : Nat) (h1 : ¬ (x1 = x2 ∧ y1 = (P - y2) % P)) (h2 : ¬ (x1 = x2 ∧ y1 = y2)) :
    padd P A (.fin x1 y1) (.fin x2 y2) = chordPoint P (chordSlope P x1 y1 x2 y2) x1 y1 x2 := by
  simp only [padd, if_neg h1, if_neg h2]

/-- Both coordinates of a finite point are below P (R150). -/
def Point.Below (P : Nat) : Point → Prop
  | .inf => True
  | .fin x y => x < P ∧ y < P

theorem chordPoint_below (P lam x1 y1 x2 : Nat) (h : 0 < P) : (chordPoint P lam x1 y1 x2).Below P :=
  ⟨intMod_lt _ _ h, intMod_lt _ _ h⟩

/-- Addition keeps coordinates below P (spec/10_state.md R27). -/
theorem padd_below (P A : Nat) (p1 p2 : Point) (h : 0 < P) (h1 : p1.Below P) (h2 : p2.Below P) :
    (padd P A p1 p2).Below P := by
  cases p1 with
  | inf => simpa using h2
  | fin x1 y1 =>
    cases p2 with
    | inf => simpa using h1
    | fin x2 y2 =>
      simp only [padd]
      repeat' split
      all_goals first | trivial | exact chordPoint_below _ _ _ _ _ h

theorem pneg_below (P : Nat) (pt : Point) (h : 0 < P) (h1 : pt.Below P) : (pneg P pt).Below P := by
  cases pt with
  | inf => trivial
  | fin x y => exact ⟨h1.1, Nat.mod_lt _ h⟩

theorem pmulLoop_below (P A bits k : Nat) (result addend : Point) (h : 0 < P) (h1 : result.Below P) (h2 : addend.Below P) :
    (pmulLoop P A bits k result addend).Below P := by
  induction bits generalizing k result addend with
  | zero => exact h1
  | succ bits ih =>
    apply ih
    · split
      · exact padd_below _ _ _ _ h h1 h2
      · exact h1
    · exact padd_below _ _ _ _ h h2 h2

/-- Scalar multiplication keeps coordinates below P. -/
theorem pmul_below (P A k : Nat) (neg : Bool) (pt : Point) (h : 0 < P) (h1 : pt.Below P) : (pmul P A k neg pt).Below P := by
  have hpt : (if neg then pneg P pt else pt).Below P := by
    split
    · exact pneg_below _ _ h h1
    · exact h1
  unfold pmul
  generalize (if neg then pneg P pt else pt) = pt' at hpt
  show (if k = 0 ∨ pt' = .inf then Point.inf else pmulLoop P A (bitlen k) k .inf pt').Below P
  split
  · trivial
  · exact pmulLoop_below _ _ _ _ _ _ h (show Point.Below P .inf from True.intro) hpt

/-- A point register read as an operand: its two cases (R150). -/
theorem PointReg.toPoint_cases (pr : PointReg) :
    (pr.inf = true ∧ pr.toPoint = .inf) ∨ (pr.inf = false ∧ pr.toPoint = .fin pr.x.toNat pr.y.toNat) := by
  cases h : pr.inf <;> simp [PointReg.toPoint, h]

/-- A finite point register written back is itself. -/
theorem PointReg.toReg_toPoint (pr : PointReg) (h : pr.inf = false) : pr.toPoint.toReg = pr := by
  rcases pr.toPoint_cases with ⟨h1, -⟩ | ⟨-, h2⟩
  · rw [h] at h1; cases h1
  · rw [h2]
    cases pr
    simp_all [Point.toReg]

/-- A point below a P of 256 bits, written to a register and read as an operand, is itself. -/
theorem Point.toPoint_toReg (pt : Point) (P : Nat) (hP : P ≤ 2 ^ 256) (h : pt.Below P) : pt.toReg.toPoint = pt := by
  cases pt with
  | inf => rfl
  | fin x y =>
    have hx : x < 2 ^ 256 := by have := h.1; omega
    have hy : y < 2 ^ 256 := by have := h.2; omega
    simp only [Point.toReg, PointReg.toPoint, BitVec.toNat_ofNat, Nat.mod_eq_of_lt hx, Nat.mod_eq_of_lt hy]
    rfl

/-- `oncurve` as a proposition (R160). -/
theorem onCurve_iff (P A B : Nat) (pt : Point) :
    onCurve P A B pt = true ↔ ∀ x y, pt = .fin x y → y * y % P = (x * x * x + A * x + B) % P := by
  cases pt with
  | inf => simp [onCurve]
  | fin x y =>
    simp only [onCurve, beq_iff_eq]
    constructor
    · rintro h _ _ ⟨rfl, rfl⟩; exact h
    · intro h; exact h x y rfl

end Sys2Proof.Machine
end

