-- ==== Sys2Proof/Laws/State.lean ====
section
/-! SUPPORT. One lemma per field per update of the state, so that no proof unfolds a record update. -/

namespace Sys2Proof.Machine

section
variable (s : State)

/-! ### State.writeR -/

@[simp] theorem State.writeR_p (i : RIdx) (v : Field) : (s.writeR i v).p = s.p := rfl
@[simp] theorem State.writeR_a (i : RIdx) (v : Field) : (s.writeR i v).a = s.a := rfl
@[simp] theorem State.writeR_b (i : RIdx) (v : Field) : (s.writeR i v).b = s.b := rfl
@[simp] theorem State.writeR_r (i : RIdx) (v : Field) : (s.writeR i v).r = s.r.set i v := rfl
@[simp] theorem State.writeR_q (i : RIdx) (v : Field) : (s.writeR i v).q = s.q := rfl
@[simp] theorem State.writeR_key (i : RIdx) (v : Field) : (s.writeR i v).key = s.key := rfl
@[simp] theorem State.writeR_block (i : RIdx) (v : Field) : (s.writeR i v).block = s.block := rfl
@[simp] theorem State.writeR_iv (i : RIdx) (v : Field) : (s.writeR i v).iv = s.iv := rfl
@[simp] theorem State.writeR_rk (i : RIdx) (v : Field) : (s.writeR i v).rk = s.rk := rfl
@[simp] theorem State.writeR_ilen (i : RIdx) (v : Field) : (s.writeR i v).ilen = s.ilen := rfl
@[simp] theorem State.writeR_olen (i : RIdx) (v : Field) : (s.writeR i v).olen = s.olen := rfl
@[simp] theorem State.writeR_mem (i : RIdx) (v : Field) : (s.writeR i v).mem = s.mem := rfl
@[simp] theorem State.writeR_latch (i : RIdx) (v : Field) : (s.writeR i v).latch = s.latch := rfl
@[simp] theorem State.writeR_ctrl (i : RIdx) (v : Field) : (s.writeR i v).ctrl = s.ctrl := rfl
@[simp] theorem State.writeR_status (i : RIdx) (v : Field) : (s.writeR i v).status = s.status := rfl
@[simp] theorem State.writeR_params (i : RIdx) (v : Field) : (s.writeR i v).params = s.params := rfl
@[simp] theorem State.writeR_turns (i : RIdx) (v : Field) : (s.writeR i v).turns = s.turns := rfl
@[simp] theorem State.writeR_response (i : RIdx) (v : Field) : (s.writeR i v).response = s.response := rfl
@[simp] theorem State.writeR_ivSupply (i : RIdx) (v : Field) : (s.writeR i v).ivSupply = s.ivSupply := rfl
@[simp] theorem State.writeR_drawCount (i : RIdx) (v : Field) : (s.writeR i v).drawCount = s.drawCount := rfl
@[simp] theorem State.writeR_resetCount (i : RIdx) (v : Field) : (s.writeR i v).resetCount = s.resetCount := rfl

/-! ### State.writeQ -/

@[simp] theorem State.writeQ_p (j : QIdx) (v : PointReg) : (s.writeQ j v).p = s.p := rfl
@[simp] theorem State.writeQ_a (j : QIdx) (v : PointReg) : (s.writeQ j v).a = s.a := rfl
@[simp] theorem State.writeQ_b (j : QIdx) (v : PointReg) : (s.writeQ j v).b = s.b := rfl
@[simp] theorem State.writeQ_r (j : QIdx) (v : PointReg) : (s.writeQ j v).r = s.r := rfl
@[simp] theorem State.writeQ_q (j : QIdx) (v : PointReg) : (s.writeQ j v).q = s.q.set j v := rfl
@[simp] theorem State.writeQ_key (j : QIdx) (v : PointReg) : (s.writeQ j v).key = s.key := rfl
@[simp] theorem State.writeQ_block (j : QIdx) (v : PointReg) : (s.writeQ j v).block = s.block := rfl
@[simp] theorem State.writeQ_iv (j : QIdx) (v : PointReg) : (s.writeQ j v).iv = s.iv := rfl
@[simp] theorem State.writeQ_rk (j : QIdx) (v : PointReg) : (s.writeQ j v).rk = s.rk := rfl
@[simp] theorem State.writeQ_ilen (j : QIdx) (v : PointReg) : (s.writeQ j v).ilen = s.ilen := rfl
@[simp] theorem State.writeQ_olen (j : QIdx) (v : PointReg) : (s.writeQ j v).olen = s.olen := rfl
@[simp] theorem State.writeQ_mem (j : QIdx) (v : PointReg) : (s.writeQ j v).mem = s.mem := rfl
@[simp] theorem State.writeQ_latch (j : QIdx) (v : PointReg) : (s.writeQ j v).latch = s.latch := rfl
@[simp] theorem State.writeQ_ctrl (j : QIdx) (v : PointReg) : (s.writeQ j v).ctrl = s.ctrl := rfl
@[simp] theorem State.writeQ_status (j : QIdx) (v : PointReg) : (s.writeQ j v).status = s.status := rfl
@[simp] theorem State.writeQ_params (j : QIdx) (v : PointReg) : (s.writeQ j v).params = s.params := rfl
@[simp] theorem State.writeQ_turns (j : QIdx) (v : PointReg) : (s.writeQ j v).turns = s.turns := rfl
@[simp] theorem State.writeQ_response (j : QIdx) (v : PointReg) : (s.writeQ j v).response = s.response := rfl
@[simp] theorem State.writeQ_ivSupply (j : QIdx) (v : PointReg) : (s.writeQ j v).ivSupply = s.ivSupply := rfl
@[simp] theorem State.writeQ_drawCount (j : QIdx) (v : PointReg) : (s.writeQ j v).drawCount = s.drawCount := rfl
@[simp] theorem State.writeQ_resetCount (j : QIdx) (v : PointReg) : (s.writeQ j v).resetCount = s.resetCount := rfl

/-! ### State.writeBlock -/

@[simp] theorem State.writeBlock_p (v : Block) : (s.writeBlock v).p = s.p := rfl
@[simp] theorem State.writeBlock_a (v : Block) : (s.writeBlock v).a = s.a := rfl
@[simp] theorem State.writeBlock_b (v : Block) : (s.writeBlock v).b = s.b := rfl
@[simp] theorem State.writeBlock_r (v : Block) : (s.writeBlock v).r = s.r := rfl
@[simp] theorem State.writeBlock_q (v : Block) : (s.writeBlock v).q = s.q := rfl
@[simp] theorem State.writeBlock_key (v : Block) : (s.writeBlock v).key = s.key := rfl
@[simp] theorem State.writeBlock_block (v : Block) : (s.writeBlock v).block = v := rfl
@[simp] theorem State.writeBlock_iv (v : Block) : (s.writeBlock v).iv = s.iv := rfl
@[simp] theorem State.writeBlock_rk (v : Block) : (s.writeBlock v).rk = s.rk := rfl
@[simp] theorem State.writeBlock_ilen (v : Block) : (s.writeBlock v).ilen = s.ilen := rfl
@[simp] theorem State.writeBlock_olen (v : Block) : (s.writeBlock v).olen = s.olen := rfl
@[simp] theorem State.writeBlock_mem (v : Block) : (s.writeBlock v).mem = s.mem := rfl
@[simp] theorem State.writeBlock_latch (v : Block) : (s.writeBlock v).latch = s.latch := rfl
@[simp] theorem State.writeBlock_ctrl (v : Block) : (s.writeBlock v).ctrl = s.ctrl := rfl
@[simp] theorem State.writeBlock_status (v : Block) : (s.writeBlock v).status = s.status := rfl
@[simp] theorem State.writeBlock_params (v : Block) : (s.writeBlock v).params = s.params := rfl
@[simp] theorem State.writeBlock_turns (v : Block) : (s.writeBlock v).turns = s.turns := rfl
@[simp] theorem State.writeBlock_response (v : Block) : (s.writeBlock v).response = s.response := rfl
@[simp] theorem State.writeBlock_ivSupply (v : Block) : (s.writeBlock v).ivSupply = s.ivSupply := rfl
@[simp] theorem State.writeBlock_drawCount (v : Block) : (s.writeBlock v).drawCount = s.drawCount := rfl
@[simp] theorem State.writeBlock_resetCount (v : Block) : (s.writeBlock v).resetCount = s.resetCount := rfl

/-! ### State.writeKey -/

@[simp] theorem State.writeKey_p (v : Block) : (s.writeKey v).p = s.p := rfl
@[simp] theorem State.writeKey_a (v : Block) : (s.writeKey v).a = s.a := rfl
@[simp] theorem State.writeKey_b (v : Block) : (s.writeKey v).b = s.b := rfl
@[simp] theorem State.writeKey_r (v : Block) : (s.writeKey v).r = s.r := rfl
@[simp] theorem State.writeKey_q (v : Block) : (s.writeKey v).q = s.q := rfl
@[simp] theorem State.writeKey_key (v : Block) : (s.writeKey v).key = v := rfl
@[simp] theorem State.writeKey_block (v : Block) : (s.writeKey v).block = s.block := rfl
@[simp] theorem State.writeKey_iv (v : Block) : (s.writeKey v).iv = s.iv := rfl
@[simp] theorem State.writeKey_rk (v : Block) : (s.writeKey v).rk = s.rk := rfl
@[simp] theorem State.writeKey_ilen (v : Block) : (s.writeKey v).ilen = s.ilen := rfl
@[simp] theorem State.writeKey_olen (v : Block) : (s.writeKey v).olen = s.olen := rfl
@[simp] theorem State.writeKey_mem (v : Block) : (s.writeKey v).mem = s.mem := rfl
@[simp] theorem State.writeKey_latch (v : Block) : (s.writeKey v).latch = s.latch := rfl
@[simp] theorem State.writeKey_ctrl (v : Block) : (s.writeKey v).ctrl = s.ctrl := rfl
@[simp] theorem State.writeKey_status (v : Block) : (s.writeKey v).status = { s.status with rkv := false } := rfl
@[simp] theorem State.writeKey_params (v : Block) : (s.writeKey v).params = s.params := rfl
@[simp] theorem State.writeKey_turns (v : Block) : (s.writeKey v).turns = s.turns := rfl
@[simp] theorem State.writeKey_response (v : Block) : (s.writeKey v).response = s.response := rfl
@[simp] theorem State.writeKey_ivSupply (v : Block) : (s.writeKey v).ivSupply = s.ivSupply := rfl
@[simp] theorem State.writeKey_drawCount (v : Block) : (s.writeKey v).drawCount = s.drawCount := rfl
@[simp] theorem State.writeKey_resetCount (v : Block) : (s.writeKey v).resetCount = s.resetCount := rfl

/-! ### State.writeSchedule -/

@[simp] theorem State.writeSchedule_p (v : Vector Block 11) : (s.writeSchedule v).p = s.p := rfl
@[simp] theorem State.writeSchedule_a (v : Vector Block 11) : (s.writeSchedule v).a = s.a := rfl
@[simp] theorem State.writeSchedule_b (v : Vector Block 11) : (s.writeSchedule v).b = s.b := rfl
@[simp] theorem State.writeSchedule_r (v : Vector Block 11) : (s.writeSchedule v).r = s.r := rfl
@[simp] theorem State.writeSchedule_q (v : Vector Block 11) : (s.writeSchedule v).q = s.q := rfl
@[simp] theorem State.writeSchedule_key (v : Vector Block 11) : (s.writeSchedule v).key = s.key := rfl
@[simp] theorem State.writeSchedule_block (v : Vector Block 11) : (s.writeSchedule v).block = s.block := rfl
@[simp] theorem State.writeSchedule_iv (v : Vector Block 11) : (s.writeSchedule v).iv = s.iv := rfl
@[simp] theorem State.writeSchedule_rk (v : Vector Block 11) : (s.writeSchedule v).rk = v := rfl
@[simp] theorem State.writeSchedule_ilen (v : Vector Block 11) : (s.writeSchedule v).ilen = s.ilen := rfl
@[simp] theorem State.writeSchedule_olen (v : Vector Block 11) : (s.writeSchedule v).olen = s.olen := rfl
@[simp] theorem State.writeSchedule_mem (v : Vector Block 11) : (s.writeSchedule v).mem = s.mem := rfl
@[simp] theorem State.writeSchedule_latch (v : Vector Block 11) : (s.writeSchedule v).latch = s.latch := rfl
@[simp] theorem State.writeSchedule_ctrl (v : Vector Block 11) : (s.writeSchedule v).ctrl = s.ctrl := rfl
@[simp] theorem State.writeSchedule_status (v : Vector Block 11) : (s.writeSchedule v).status = { s.status with rkv := true } := rfl
@[simp] theorem State.writeSchedule_params (v : Vector Block 11) : (s.writeSchedule v).params = s.params := rfl
@[simp] theorem State.writeSchedule_turns (v : Vector Block 11) : (s.writeSchedule v).turns = s.turns := rfl
@[simp] theorem State.writeSchedule_response (v : Vector Block 11) : (s.writeSchedule v).response = s.response := rfl
@[simp] theorem State.writeSchedule_ivSupply (v : Vector Block 11) : (s.writeSchedule v).ivSupply = s.ivSupply := rfl
@[simp] theorem State.writeSchedule_drawCount (v : Vector Block 11) : (s.writeSchedule v).drawCount = s.drawCount := rfl
@[simp] theorem State.writeSchedule_resetCount (v : Vector Block 11) : (s.writeSchedule v).resetCount = s.resetCount := rfl

/-! ### State.writeBytes -/

@[simp] theorem State.writeBytes_p (addr : Nat) (bs : List Byte) : (s.writeBytes addr bs).p = s.p := rfl
@[simp] theorem State.writeBytes_a (addr : Nat) (bs : List Byte) : (s.writeBytes addr bs).a = s.a := rfl
@[simp] theorem State.writeBytes_b (addr : Nat) (bs : List Byte) : (s.writeBytes addr bs).b = s.b := rfl
@[simp] theorem State.writeBytes_r (addr : Nat) (bs : List Byte) : (s.writeBytes addr bs).r = s.r := rfl
@[simp] theorem State.writeBytes_q (addr : Nat) (bs : List Byte) : (s.writeBytes addr bs).q = s.q := rfl
@[simp] theorem State.writeBytes_key (addr : Nat) (bs : List Byte) : (s.writeBytes addr bs).key = s.key := rfl
@[simp] theorem State.writeBytes_block (addr : Nat) (bs : List Byte) : (s.writeBytes addr bs).block = s.block := rfl
@[simp] theorem State.writeBytes_iv (addr : Nat) (bs : List Byte) : (s.writeBytes addr bs).iv = s.iv := rfl
@[simp] theorem State.writeBytes_rk (addr : Nat) (bs : List Byte) : (s.writeBytes addr bs).rk = s.rk := rfl
@[simp] theorem State.writeBytes_ilen (addr : Nat) (bs : List Byte) : (s.writeBytes addr bs).ilen = s.ilen := rfl
@[simp] theorem State.writeBytes_olen (addr : Nat) (bs : List Byte) : (s.writeBytes addr bs).olen = s.olen := rfl
@[simp] theorem State.writeBytes_mem (addr : Nat) (bs : List Byte) : (s.writeBytes addr bs).mem = Memory.writeBytes s.mem addr bs := rfl
@[simp] theorem State.writeBytes_latch (addr : Nat) (bs : List Byte) : (s.writeBytes addr bs).latch = s.latch := rfl
@[simp] theorem State.writeBytes_ctrl (addr : Nat) (bs : List Byte) : (s.writeBytes addr bs).ctrl = s.ctrl := rfl
@[simp] theorem State.writeBytes_status (addr : Nat) (bs : List Byte) : (s.writeBytes addr bs).status = s.status := rfl
@[simp] theorem State.writeBytes_params (addr : Nat) (bs : List Byte) : (s.writeBytes addr bs).params = s.params := rfl
@[simp] theorem State.writeBytes_turns (addr : Nat) (bs : List Byte) : (s.writeBytes addr bs).turns = s.turns := rfl
@[simp] theorem State.writeBytes_response (addr : Nat) (bs : List Byte) : (s.writeBytes addr bs).response = s.response := rfl
@[simp] theorem State.writeBytes_ivSupply (addr : Nat) (bs : List Byte) : (s.writeBytes addr bs).ivSupply = s.ivSupply := rfl
@[simp] theorem State.writeBytes_drawCount (addr : Nat) (bs : List Byte) : (s.writeBytes addr bs).drawCount = s.drawCount := rfl
@[simp] theorem State.writeBytes_resetCount (addr : Nat) (bs : List Byte) : (s.writeBytes addr bs).resetCount = s.resetCount := rfl

/-! ### State.writeOutput -/

@[simp] theorem State.writeOutput_p (out : List Byte) : (s.writeOutput out).p = s.p := rfl
@[simp] theorem State.writeOutput_a (out : List Byte) : (s.writeOutput out).a = s.a := rfl
@[simp] theorem State.writeOutput_b (out : List Byte) : (s.writeOutput out).b = s.b := rfl
@[simp] theorem State.writeOutput_r (out : List Byte) : (s.writeOutput out).r = s.r := rfl
@[simp] theorem State.writeOutput_q (out : List Byte) : (s.writeOutput out).q = s.q := rfl
@[simp] theorem State.writeOutput_key (out : List Byte) : (s.writeOutput out).key = s.key := rfl
@[simp] theorem State.writeOutput_block (out : List Byte) : (s.writeOutput out).block = s.block := rfl
@[simp] theorem State.writeOutput_iv (out : List Byte) : (s.writeOutput out).iv = s.iv := rfl
@[simp] theorem State.writeOutput_rk (out : List Byte) : (s.writeOutput out).rk = s.rk := rfl
@[simp] theorem State.writeOutput_ilen (out : List Byte) : (s.writeOutput out).ilen = s.ilen := rfl
@[simp] theorem State.writeOutput_olen (out : List Byte) : (s.writeOutput out).olen = BitVec.ofNat 32 out.length := rfl
@[simp] theorem State.writeOutput_mem (out : List Byte) : (s.writeOutput out).mem = Memory.writeBytes s.mem obufBase out := rfl
@[simp] theorem State.writeOutput_latch (out : List Byte) : (s.writeOutput out).latch = s.latch := rfl
@[simp] theorem State.writeOutput_ctrl (out : List Byte) : (s.writeOutput out).ctrl = s.ctrl := rfl
@[simp] theorem State.writeOutput_status (out : List Byte) : (s.writeOutput out).status = s.status := rfl
@[simp] theorem State.writeOutput_params (out : List Byte) : (s.writeOutput out).params = s.params := rfl
@[simp] theorem State.writeOutput_turns (out : List Byte) : (s.writeOutput out).turns = s.turns := rfl
@[simp] theorem State.writeOutput_response (out : List Byte) : (s.writeOutput out).response = s.response := rfl
@[simp] theorem State.writeOutput_ivSupply (out : List Byte) : (s.writeOutput out).ivSupply = s.ivSupply := rfl
@[simp] theorem State.writeOutput_drawCount (out : List Byte) : (s.writeOutput out).drawCount = s.drawCount := rfl
@[simp] theorem State.writeOutput_resetCount (out : List Byte) : (s.writeOutput out).resetCount = s.resetCount := rfl

/-! ### State.takeDraw -/

@[simp] theorem State.takeDraw_p : (s.takeDraw).p = s.p := rfl
@[simp] theorem State.takeDraw_a : (s.takeDraw).a = s.a := rfl
@[simp] theorem State.takeDraw_b : (s.takeDraw).b = s.b := rfl
@[simp] theorem State.takeDraw_r : (s.takeDraw).r = s.r := rfl
@[simp] theorem State.takeDraw_q : (s.takeDraw).q = s.q := rfl
@[simp] theorem State.takeDraw_key : (s.takeDraw).key = s.key := rfl
@[simp] theorem State.takeDraw_block : (s.takeDraw).block = s.block := rfl
@[simp] theorem State.takeDraw_iv : (s.takeDraw).iv = s.nextDraw := rfl
@[simp] theorem State.takeDraw_rk : (s.takeDraw).rk = s.rk := rfl
@[simp] theorem State.takeDraw_ilen : (s.takeDraw).ilen = s.ilen := rfl
@[simp] theorem State.takeDraw_olen : (s.takeDraw).olen = s.olen := rfl
@[simp] theorem State.takeDraw_mem : (s.takeDraw).mem = s.mem := rfl
@[simp] theorem State.takeDraw_latch : (s.takeDraw).latch = s.latch := rfl
@[simp] theorem State.takeDraw_ctrl : (s.takeDraw).ctrl = s.ctrl := rfl
@[simp] theorem State.takeDraw_status : (s.takeDraw).status = s.status := rfl
@[simp] theorem State.takeDraw_params : (s.takeDraw).params = s.params := rfl
@[simp] theorem State.takeDraw_turns : (s.takeDraw).turns = s.turns := rfl
@[simp] theorem State.takeDraw_response : (s.takeDraw).response = s.response := rfl
@[simp] theorem State.takeDraw_ivSupply : (s.takeDraw).ivSupply = s.ivSupply.tail := rfl
@[simp] theorem State.takeDraw_drawCount : (s.takeDraw).drawCount = s.drawCount + 1 := rfl
@[simp] theorem State.takeDraw_resetCount : (s.takeDraw).resetCount = s.resetCount := rfl

/-! ### State.complete -/

@[simp] theorem State.complete_p (code : ErrCode) : (s.complete code).p = s.p := rfl
@[simp] theorem State.complete_a (code : ErrCode) : (s.complete code).a = s.a := rfl
@[simp] theorem State.complete_b (code : ErrCode) : (s.complete code).b = s.b := rfl
@[simp] theorem State.complete_r (code : ErrCode) : (s.complete code).r = s.r := rfl
@[simp] theorem State.complete_q (code : ErrCode) : (s.complete code).q = s.q := rfl
@[simp] theorem State.complete_key (code : ErrCode) : (s.complete code).key = s.key := rfl
@[simp] theorem State.complete_block (code : ErrCode) : (s.complete code).block = s.block := rfl
@[simp] theorem State.complete_iv (code : ErrCode) : (s.complete code).iv = s.iv := rfl
@[simp] theorem State.complete_rk (code : ErrCode) : (s.complete code).rk = s.rk := rfl
@[simp] theorem State.complete_ilen (code : ErrCode) : (s.complete code).ilen = s.ilen := rfl
@[simp] theorem State.complete_olen (code : ErrCode) : (s.complete code).olen = s.olen := rfl
@[simp] theorem State.complete_mem (code : ErrCode) : (s.complete code).mem = s.mem := rfl
@[simp] theorem State.complete_latch (code : ErrCode) : (s.complete code).latch = s.latch := rfl
@[simp] theorem State.complete_ctrl (code : ErrCode) : (s.complete code).ctrl = s.ctrl := rfl
@[simp] theorem State.complete_status (code : ErrCode) : (s.complete code).status = s.status.complete code := rfl
@[simp] theorem State.complete_params (code : ErrCode) : (s.complete code).params = s.params := rfl
@[simp] theorem State.complete_turns (code : ErrCode) : (s.complete code).turns = s.turns := rfl
@[simp] theorem State.complete_response (code : ErrCode) : (s.complete code).response = s.response := rfl
@[simp] theorem State.complete_ivSupply (code : ErrCode) : (s.complete code).ivSupply = s.ivSupply := rfl
@[simp] theorem State.complete_drawCount (code : ErrCode) : (s.complete code).drawCount = s.drawCount := rfl
@[simp] theorem State.complete_resetCount (code : ErrCode) : (s.complete code).resetCount = s.resetCount := rfl

/-! ### State.issue -/

@[simp] theorem State.issue_p (w : Word) : (s.issue w).p = s.p := rfl
@[simp] theorem State.issue_a (w : Word) : (s.issue w).a = s.a := rfl
@[simp] theorem State.issue_b (w : Word) : (s.issue w).b = s.b := rfl
@[simp] theorem State.issue_r (w : Word) : (s.issue w).r = s.r := rfl
@[simp] theorem State.issue_q (w : Word) : (s.issue w).q = s.q := rfl
@[simp] theorem State.issue_key (w : Word) : (s.issue w).key = s.key := rfl
@[simp] theorem State.issue_block (w : Word) : (s.issue w).block = s.block := rfl
@[simp] theorem State.issue_iv (w : Word) : (s.issue w).iv = s.iv := rfl
@[simp] theorem State.issue_rk (w : Word) : (s.issue w).rk = s.rk := rfl
@[simp] theorem State.issue_ilen (w : Word) : (s.issue w).ilen = s.ilen := rfl
@[simp] theorem State.issue_olen (w : Word) : (s.issue w).olen = s.olen := rfl
@[simp] theorem State.issue_mem (w : Word) : (s.issue w).mem = s.mem := rfl
@[simp] theorem State.issue_latch (w : Word) : (s.issue w).latch = w := rfl
@[simp] theorem State.issue_ctrl (w : Word) : (s.issue w).ctrl = s.ctrl := rfl
@[simp] theorem State.issue_status (w : Word) : (s.issue w).status = s.status.issue := rfl
@[simp] theorem State.issue_params (w : Word) : (s.issue w).params = s.params := rfl
@[simp] theorem State.issue_turns (w : Word) : (s.issue w).turns = s.turns := rfl
@[simp] theorem State.issue_response (w : Word) : (s.issue w).response = s.response := rfl
@[simp] theorem State.issue_ivSupply (w : Word) : (s.issue w).ivSupply = s.ivSupply := rfl
@[simp] theorem State.issue_drawCount (w : Word) : (s.issue w).drawCount = s.drawCount := rfl
@[simp] theorem State.issue_resetCount (w : Word) : (s.issue w).resetCount = s.resetCount := rfl

end

section
variable (st : Status)

/-! ### Status.complete -/

@[simp] theorem Status.complete_busy (code : ErrCode) : (st.complete code).busy = false := rfl
@[simp] theorem Status.complete_done (code : ErrCode) : (st.complete code).done = true := rfl
@[simp] theorem Status.complete_err (code : ErrCode) : (st.complete code).err = (code != .ok) := rfl
@[simp] theorem Status.complete_errcode (code : ErrCode) : (st.complete code).errcode = code := rfl
@[simp] theorem Status.complete_oncurve (code : ErrCode) : (st.complete code).oncurve = st.oncurve := rfl
@[simp] theorem Status.complete_nonsing (code : ErrCode) : (st.complete code).nonsing = st.nonsing := rfl
@[simp] theorem Status.complete_padv (code : ErrCode) : (st.complete code).padv = st.padv := rfl
@[simp] theorem Status.complete_rkv (code : ErrCode) : (st.complete code).rkv = st.rkv := rfl
@[simp] theorem Status.complete_busyerr (code : ErrCode) : (st.complete code).busyerr = st.busyerr := rfl

/-! ### Status.issue -/

@[simp] theorem Status.issue_busy : (st.issue).busy = true := rfl
@[simp] theorem Status.issue_done : (st.issue).done = false := rfl
@[simp] theorem Status.issue_err : (st.issue).err = st.err := rfl
@[simp] theorem Status.issue_errcode : (st.issue).errcode = st.errcode := rfl
@[simp] theorem Status.issue_oncurve : (st.issue).oncurve = st.oncurve := rfl
@[simp] theorem Status.issue_nonsing : (st.issue).nonsing = st.nonsing := rfl
@[simp] theorem Status.issue_padv : (st.issue).padv = st.padv := rfl
@[simp] theorem Status.issue_rkv : (st.issue).rkv = st.rkv := rfl
@[simp] theorem Status.issue_busyerr : (st.issue).busyerr = st.busyerr := rfl

/-! ### Status.dropWrite -/

@[simp] theorem Status.dropWrite_busy : (st.dropWrite).busy = st.busy := rfl
@[simp] theorem Status.dropWrite_done : (st.dropWrite).done = st.done := rfl
@[simp] theorem Status.dropWrite_err : (st.dropWrite).err = st.err := rfl
@[simp] theorem Status.dropWrite_errcode : (st.dropWrite).errcode = st.errcode := rfl
@[simp] theorem Status.dropWrite_oncurve : (st.dropWrite).oncurve = st.oncurve := rfl
@[simp] theorem Status.dropWrite_nonsing : (st.dropWrite).nonsing = st.nonsing := rfl
@[simp] theorem Status.dropWrite_padv : (st.dropWrite).padv = st.padv := rfl
@[simp] theorem Status.dropWrite_rkv : (st.dropWrite).rkv = st.rkv := rfl
@[simp] theorem Status.dropWrite_busyerr : (st.dropWrite).busyerr = true := rfl

/-! ### Status.writeOneToClear -/

@[simp] theorem Status.writeOneToClear_busy (v : Word) : (st.writeOneToClear v).busy = st.busy := rfl
@[simp] theorem Status.writeOneToClear_done (v : Word) : (st.writeOneToClear v).done = (st.done && !v.getLsbD 1) := rfl
@[simp] theorem Status.writeOneToClear_err (v : Word) : (st.writeOneToClear v).err = st.err := rfl
@[simp] theorem Status.writeOneToClear_errcode (v : Word) : (st.writeOneToClear v).errcode = st.errcode := rfl
@[simp] theorem Status.writeOneToClear_oncurve (v : Word) : (st.writeOneToClear v).oncurve = st.oncurve := rfl
@[simp] theorem Status.writeOneToClear_nonsing (v : Word) : (st.writeOneToClear v).nonsing = st.nonsing := rfl
@[simp] theorem Status.writeOneToClear_padv (v : Word) : (st.writeOneToClear v).padv = st.padv := rfl
@[simp] theorem Status.writeOneToClear_rkv (v : Word) : (st.writeOneToClear v).rkv = st.rkv := rfl
@[simp] theorem Status.writeOneToClear_busyerr (v : Word) : (st.writeOneToClear v).busyerr = (st.busyerr && !v.getLsbD 16) := rfl

end

end Sys2Proof.Machine
end

