-- ==== Sys2Proof/Laws/Ops.lean ====
section
/-! SUPPORT. What the shared operations of the meanings can do, once each: the commit of a completion and the checks. -/

namespace Sys2Proof.Machine

/-- Everything `State.finish` can do: with an error only the completion fields change; without one the writes stand
(spec/60_exceptions.md R303, R306). -/
theorem State.finish_cases (s t : State) (result : Except ErrCode State) (h : s.finish result = .next t) :
    (∃ code, result = .error code ∧ t = s.complete code) ∨ (∃ u, result = .ok u ∧ t = u.complete .ok) := by
  cases result with
  | error code => exact .inl ⟨code, rfl, by simpa [State.finish] using h.symm⟩
  | ok u => exact .inr ⟨u, rfl, by simpa [State.finish] using h.symm⟩

@[simp] theorem State.finish_error (s : State) (code : ErrCode) : s.finish (.error code) = .next (s.complete code) := rfl

@[simp] theorem State.finish_ok (s t : State) : s.finish (.ok t) = .next (t.complete .ok) := rfl

@[simp] theorem afterCheck_none (rest : Except ErrCode State) : afterCheck none rest = rest := rfl

@[simp] theorem afterCheck_some (code : ErrCode) (rest : Except ErrCode State) :
    afterCheck (some code) rest = .error code := rfl

/-- The modulus check fails exactly for an even P or a P below 3 (spec/40_modular.md R120). -/
theorem modulusBad_iff (P : Nat) : modulusBad P = true ↔ P < 3 ∨ P % 2 = 0 := by simp [modulusBad]

/-- All that the checks of a curve or modular command can answer (R120, R121, spec/60_exceptions.md R302). -/
theorem State.fieldError_cases (s : State) (operands : List Field) :
    ((s.p.toNat < 3 ∨ s.p.toNat % 2 = 0) ∧ s.fieldError operands = some .modulus) ∨
    (3 ≤ s.p.toNat ∧ s.p.toNat % 2 = 1 ∧ (∃ v ∈ operands, s.p.toNat ≤ v.toNat) ∧ s.fieldError operands = some .range) ∨
    (3 ≤ s.p.toNat ∧ s.p.toNat % 2 = 1 ∧ (∀ v ∈ operands, v.toNat < s.p.toNat) ∧ s.fieldError operands = none) := by
  by_cases hm : modulusBad s.p.toNat = true
  · exact .inl ⟨(modulusBad_iff _).1 hm, by simp [State.fieldError, hm]⟩
  · have hP : ¬ (s.p.toNat < 3 ∨ s.p.toNat % 2 = 0) := fun h => hm ((modulusBad_iff _).2 h)
    by_cases hr : (operands.any fun v => decide (s.p.toNat ≤ v.toNat)) = true
    · refine .inr (.inl ⟨by omega, by omega, by simpa using hr, ?_⟩)
      unfold State.fieldError
      rw [if_neg hm, if_pos hr]
    · refine .inr (.inr ⟨by omega, by omega, by simpa using hr, ?_⟩)
      unfold State.fieldError
      rw [if_neg hm, if_neg hr]

theorem State.keyError_true (s : State) (h : s.status.rkv = true) : s.keyError = none := by simp [State.keyError, h]

theorem State.keyError_false (s : State) (h : s.status.rkv = false) : s.keyError = some .nokey := by
  simp [State.keyError, h]

/-- ADDRK has a round key exactly for the legal round indices (spec/30_encoding.md R93). -/
theorem State.roundKey_eq (s : State) (rnd : BitVec 4) :
    s.roundKey rnd = if h : rnd.toNat < 11 then some s.rk[rnd.toNat] else none := by
  simp only [State.roundKey]
  split
  · rename_i h; simp [h]
  · rename_i h; simp [h]

end Sys2Proof.Machine
end

