-- ==== Sys2Proof/Laws/Port.lean ====
section
/-! SUPPORT. What the address map answers, once for each row of spec/20_memory.md R62, and where an access is routed. -/

namespace Sys2Proof.Machine

/-- The parameter BUF_BYTES is "a multiple of 16 with `32 <= BUF_BYTES <= 16384`" (spec/00_scope.md R5). -/
theorem State.bufBytes_range (s : State) : 32 ≤ s.bufBytes ∧ s.bufBytes ≤ 16384 ∧ s.bufBytes % 16 = 0 := by
  have := s.params.bufSlot.isLt
  simp only [State.bufBytes, Params.bufBytes]
  omega

theorem wordIndex_eight (j base : Nat) (hj : j < 8) (hb : base % 32 = 0) : (wordIndex 8 (base + 4 * j)).val = j := by
  simp [wordIndex, Fin.ofNat]; omega

theorem wordIndex_four (j base : Nat) (hj : j < 4) (hb : base % 16 = 0) : (wordIndex 4 (base + 4 * j)).val = j := by
  simp [wordIndex, Fin.ofNat]; omega


theorem locate_control (bufBytes off : Nat) (h : off < 0x0100) : locate bufBytes off = controlLocation off := by
  rw [locate, if_pos h]

theorem locate_curve (bufBytes off : Nat) (h1 : 0x0100 ≤ off) (h2 : off < 0x0200) :
    locate bufBytes off = curveLocation off := by
  rw [locate, if_neg (by omega), if_pos h2]

theorem locate_point (bufBytes off : Nat) (h1 : 0x0400 ≤ off) (h2 : off < 0x0600) :
    locate bufBytes off = pointLocation off := by
  rw [locate, if_neg (by omega), if_neg (by omega), if_neg (by omega), if_pos ⟨h1, h2⟩]

theorem locate_cipher (bufBytes off : Nat) (h1 : 0x0600 ≤ off) (h2 : off < 0x0700) :
    locate bufBytes off = cipherLocation off := by
  rw [locate, if_neg (by omega), if_neg (by omega), if_neg (by omega), if_neg (by omega), if_pos ⟨h1, h2⟩]

theorem locate_p (bufBytes j : Nat) (hj : j < 8) : locate bufBytes (0x100 + 4 * j) = some (.p ⟨j, hj⟩) := by
  rw [locate_curve _ _ (by omega) (by omega), curveLocation, if_pos (by omega)]
  exact congrArg (some ∘ Location.p) (Fin.ext (wordIndex_eight _ _ hj (by omega)))

theorem locate_a (bufBytes j : Nat) (hj : j < 8) : locate bufBytes (0x120 + 4 * j) = some (.a ⟨j, hj⟩) := by
  rw [locate_curve _ _ (by omega) (by omega), curveLocation, if_neg (by omega), if_pos (by omega)]
  exact congrArg (some ∘ Location.a) (Fin.ext (wordIndex_eight _ _ hj (by omega)))

theorem locate_b (bufBytes j : Nat) (hj : j < 8) : locate bufBytes (0x140 + 4 * j) = some (.b ⟨j, hj⟩) := by
  rw [locate_curve _ _ (by omega) (by omega), curveLocation, if_neg (by omega), if_neg (by omega), if_pos (by omega)]
  exact congrArg (some ∘ Location.b) (Fin.ext (wordIndex_eight _ _ hj (by omega)))

theorem locate_r (bufBytes : Nat) (i : RIdx) (j : Nat) (hj : j < 8) :
    locate bufBytes (0x200 + 0x20 * i + 4 * j) = some (.r i ⟨j, hj⟩) := by
  rw [locate, if_neg (by omega), if_neg (by omega), if_pos (by omega)]
  have h1 : Fin.ofNat 8 ((0x200 + 0x20 * i.val + 4 * j - 0x200) / 0x20) = i := by
    apply Fin.ext; simp only [Fin.ofNat]; omega
  rw [h1]
  exact congrArg (some ∘ Location.r i) (Fin.ext (wordIndex_eight _ _ hj (by omega)))

theorem locate_qinf (bufBytes : Nat) (j : QIdx) : locate bufBytes (0x400 + 0x80 * j) = some (.qinf j) := by
  rw [locate_point _ _ (by omega) (by omega), pointLocation, if_pos (by omega)]
  exact congrArg (some ∘ Location.qinf) (Fin.ext (by simp only [Fin.ofNat]; omega))

theorem locate_qx (bufBytes : Nat) (i : QIdx) (j : Nat) (hj : j < 8) :
    locate bufBytes (0x420 + 0x80 * i + 4 * j) = some (.qx i ⟨j, hj⟩) := by
  rw [locate_point _ _ (by omega) (by omega), pointLocation, if_neg (by omega), if_neg (by omega), if_pos (by omega)]
  have h1 : Fin.ofNat 4 ((0x420 + 0x80 * i.val + 4 * j - 0x400) / 0x80) = i := by
    apply Fin.ext; simp only [Fin.ofNat]; omega
  rw [h1]
  exact congrArg (some ∘ Location.qx i) (Fin.ext (wordIndex_eight _ _ hj (by omega)))

theorem locate_qy (bufBytes : Nat) (i : QIdx) (j : Nat) (hj : j < 8) :
    locate bufBytes (0x440 + 0x80 * i + 4 * j) = some (.qy i ⟨j, hj⟩) := by
  rw [locate_point _ _ (by omega) (by omega), pointLocation, if_neg (by omega), if_neg (by omega), if_neg (by omega), if_pos (by omega)]
  have h1 : Fin.ofNat 4 ((0x440 + 0x80 * i.val + 4 * j - 0x400) / 0x80) = i := by
    apply Fin.ext; simp only [Fin.ofNat]; omega
  rw [h1]
  exact congrArg (some ∘ Location.qy i) (Fin.ext (wordIndex_eight _ _ hj (by omega)))

theorem locate_key (bufBytes j : Nat) (hj : j < 4) : locate bufBytes (0x600 + 4 * j) = some (.key ⟨j, hj⟩) := by
  rw [locate_cipher _ _ (by omega) (by omega), cipherLocation, if_pos (by omega)]
  exact congrArg (some ∘ Location.key) (Fin.ext (wordIndex_four _ _ hj (by omega)))

theorem locate_block (bufBytes j : Nat) (hj : j < 4) : locate bufBytes (0x610 + 4 * j) = some (.block ⟨j, hj⟩) := by
  rw [locate_cipher _ _ (by omega) (by omega), cipherLocation, if_neg (by omega), if_pos (by omega)]
  exact congrArg (some ∘ Location.block) (Fin.ext (wordIndex_four _ _ hj (by omega)))

theorem locate_iv (bufBytes j : Nat) (hj : j < 4) : locate bufBytes (0x620 + 4 * j) = some (.iv ⟨j, hj⟩) := by
  rw [locate_cipher _ _ (by omega) (by omega), cipherLocation, if_neg (by omega), if_neg (by omega), if_pos (by omega)]
  exact congrArg (some ∘ Location.iv) (Fin.ext (wordIndex_four _ _ hj (by omega)))

theorem locate_rk (bufBytes : Nat) (i : Fin 11) (j : Nat) (hj : j < 4) :
    locate bufBytes (0x700 + 0x10 * i + 4 * j) = some (.rk i ⟨j, hj⟩) := by
  rw [locate]
  repeat rw [if_neg (by omega)]
  rw [if_pos (by omega)]
  have h1 : Fin.ofNat 11 ((0x700 + 0x10 * i.val + 4 * j - 0x700) / 0x10) = i := by
    apply Fin.ext; simp only [Fin.ofNat]; omega
  rw [h1]
  exact congrArg (some ∘ Location.rk i) (Fin.ext (wordIndex_four _ _ hj (by omega)))

theorem locate_ibuf (bufBytes off : Nat) (h : 0x4000 ≤ off) (h2 : off < 0x4000 + bufBytes) :
    locate bufBytes off = some (.ibuf off) := by
  unfold locate ibufBase
  repeat rw [if_neg (by omega)]
  rw [if_pos ⟨h, h2⟩]

theorem locate_obuf (bufBytes off : Nat) (hb : bufBytes ≤ 16384) (h : 0x8000 ≤ off) (h2 : off < 0x8000 + bufBytes) :
    locate bufBytes off = some (.obuf off) := by
  unfold locate ibufBase obufBase
  repeat rw [if_neg (by omega)]
  rw [if_pos ⟨h, h2⟩]

/-- The unmapped offsets are those R62 does not list. -/
theorem locate_eq_none_iff (bufBytes off : Nat) (h4 : off % 4 = 0) :
    locate bufBytes off = none ↔
      ¬ (off ≤ 0x0017 ∨ (0x0100 ≤ off ∧ off ≤ 0x015F) ∨ (0x0200 ≤ off ∧ off ≤ 0x02FF) ∨
        (0x0400 ≤ off ∧ off ≤ 0x05FF ∧ (off % 0x80 < 4 ∨ (0x20 ≤ off % 0x80 ∧ off % 0x80 < 0x60))) ∨
        (0x0600 ≤ off ∧ off ≤ 0x062F) ∨ (0x0700 ≤ off ∧ off ≤ 0x07AF) ∨
        (0x4000 ≤ off ∧ off < 0x4000 + bufBytes) ∨ (0x8000 ≤ off ∧ off < 0x8000 + bufBytes)) := by
  generalize hl : locate bufBytes off = loc
  unfold locate controlLocation curveLocation pointLocation cipherLocation ibufBase obufBase at hl
  simp only at hl
  repeat' split at hl
  all_goals subst hl
  all_goals simp only [reduceCtorEq, false_iff, true_iff, not_not]
  all_goals omega

/-- The locations whose writes take effect while BUSY = 1 are CTRL and STATUS (R70). -/
theorem locate_writableWhileBusy (bufBytes off : Nat) (loc : Location) (h4 : off % 4 = 0)
    (h : locate bufBytes off = some loc) : loc.writableWhileBusy = true ↔ off = 0x0004 ∨ off = 0x0008 := by
  unfold locate controlLocation curveLocation pointLocation cipherLocation ibufBase obufBase at h
  simp only at h
  repeat' split at h
  all_goals first
    | (injection h with h; subst h; simp only [Location.writableWhileBusy, true_iff, false_iff, Bool.false_eq_true]; omega)
    | cases h

/-- The read-only rows of the map (R67). -/
def Location.readOnly : Location → Bool
  | .id | .olen | .iv _ | .rk _ _ | .obuf _ => true
  | _ => false

/-- The read-only locations are ID, OLEN, IV, RK and OBUF (R67). -/
theorem locate_readOnly (bufBytes off : Nat) (loc : Location) (hb : bufBytes ≤ 16384) (h4 : off % 4 = 0)
    (h : locate bufBytes off = some loc) :
    loc.readOnly = true ↔ off = 0x0000 ∨ off = 0x0014 ∨ (0x0620 ≤ off ∧ off ≤ 0x062F) ∨ (0x0700 ≤ off ∧ off ≤ 0x07AF) ∨
      (0x8000 ≤ off ∧ off < 0x8000 + bufBytes) := by
  unfold locate controlLocation curveLocation pointLocation cipherLocation ibufBase obufBase at h
  simp only at h
  repeat' split at h
  all_goals first
    | (injection h with h; subst h; simp only [Location.readOnly, true_iff, false_iff, Bool.false_eq_true]; omega)
    | cases h

/-- A write to a read-only location changes nothing (R67). -/
theorem State.writeWord_readOnly (w : Word) (s : State) (loc : Location) (h : loc.readOnly = true) :
    s.writeWord w loc = s := by
  cases loc <;> first | rfl | cases h

/-- A 32-bit access at a mapped, word-aligned offset of the window reaches its location (R61, R62). -/
theorem State.route_ok (s : State) (off : Nat) (loc : Location) (h4 : off % 4 = 0) (hw : off < 0x10000)
    (h : locate s.bufBytes off = some loc) : s.route (s.params.coreBase + off) .bits32 = .ok loc := by
  unfold State.route
  rw [if_neg (by omega), if_pos ⟨rfl, by rw [Nat.add_sub_cancel_left]; exact h4⟩, Nat.add_sub_cancel_left, h]

/-- Every other access inside the window gets a bus error (R61, R65). -/
theorem State.route_busError (s : State) (off : Nat) (width : Width) (hw : off < 0x10000)
    (h : width ≠ .bits32 ∨ off % 4 ≠ 0 ∨ locate s.bufBytes off = none) :
    s.route (s.params.coreBase + off) width = .error .busError := by
  unfold State.route
  rw [if_neg (by omega), Nat.add_sub_cancel_left]
  split
  · rename_i hok
    rcases h with h | h | h
    · exact absurd hok.1 h
    · exact absurd hok.2 h
    · rw [h]
  · rfl

end Sys2Proof.Machine
end

