-- ==== Sys2Proof/Laws/Exec.lean ====
section
/-! SUPPORT. What a command, a host access and a step can do, once each. -/

namespace Sys2Proof.Machine

/-- Every command ends in one commit, and its writes leave alone what no command writes: P, A, B, ILEN, the latch, CTRL,
BUSYERR, the parameters, the events, the port's answer and the reset counter (spec/10_state.md R21). -/
theorem exec_commits (i : Instr) (s : State) :
    ∃ result : Except ErrCode State, exec i s = s.finish result ∧ ∀ t, result = .ok t →
      t.p = s.p ∧ t.a = s.a ∧ t.b = s.b ∧ t.ilen = s.ilen ∧ t.latch = s.latch ∧ t.ctrl = s.ctrl ∧
      t.status.busyerr = s.status.busyerr ∧ t.params = s.params ∧ t.turns = s.turns ∧ t.response = s.response ∧
      t.resetCount = s.resetCount := by
  cases i
  all_goals
    simp only [exec, execNop, execEcadd, execEcdbl, execEcmul, execEcchk, execEcdisc, execModinv, execModsqrt, execAeskeyx,
      execKeyexp, execAesenc, execAesdec, execSubbytes, execInvsubbytes, execShiftrows, execInvshiftrows, execMixcolumns,
      execInvmixcolumns, execAddrk, execCbcenc, execCbcdec]
    refine ⟨_, rfl, ?_⟩
    intro t ht
    try unfold afterCheck at ht
    try split at ht
    all_goals try split at ht
    all_goals first | (cases ht; done) | (injection ht with ht; subst ht; simp)

/-- A 32-bit read of a mapped word answers its committed value (spec/20_memory.md R66). -/
theorem State.hostAct_read (s : State) (off : Nat) (loc : Location) (h4 : off % 4 = 0) (hw : off < 0x10000)
    (h : locate s.bufBytes off = some loc) :
    s.hostAct (.read (s.params.coreBase + off) .bits32) = { s with response := .data (s.readWord loc) } := by
  simp only [State.hostAct, s.route_ok off loc h4 hw h]

/-- A 32-bit write of a mapped word goes through the busy rule (R69, R70). -/
theorem State.hostAct_write (s : State) (off : Nat) (w : Word) (loc : Location) (h4 : off % 4 = 0) (hw : off < 0x10000)
    (h : locate s.bufBytes off = some loc) :
    s.hostAct (.write (s.params.coreBase + off) .bits32 w) = { s.hostWrite w loc with response := .written } := by
  simp only [State.hostAct, s.route_ok off loc h4 hw h]

/-- Everything a mapped write can do (R69, R70). -/
theorem State.hostWrite_cases (w : Word) (loc : Location) (s : State) :
    (s.status.busy = true ∧ loc.writableWhileBusy = false ∧
      s.hostWrite w loc = { s with status := { s.status with busyerr := true } }) ∨
    ((s.status.busy = false ∨ loc.writableWhileBusy = true) ∧ s.hostWrite w loc = s.writeWord w loc) := by
  cases hb : s.status.busy <;> cases hl : loc.writableWhileBusy <;>
    simp [State.hostWrite, hb, hl, Status.dropWrite]

/-- Everything the core's step can do (spec/60_exceptions.md R306, R301). -/
theorem coreStep_cases (s : State) :
    (s.status.busy = false ∧ coreStep s = .next s) ∨
    (s.status.busy = true ∧ ∃ i, decode s.latch = .ok i ∧ coreStep s = exec i s) ∨
    (s.status.busy = true ∧ ∃ reason, decode s.latch = .error reason ∧ coreStep s = .next (s.complete .illegal)) := by
  cases hb : s.status.busy
  · exact .inl ⟨rfl, by simp [coreStep, hb]⟩
  · cases hd : decode s.latch with
    | ok i => exact .inr (.inl ⟨rfl, i, rfl, by simp [coreStep, hb, hd]⟩)
    | error reason => exact .inr (.inr ⟨rfl, reason, rfl, by simp [coreStep, hb, hd]⟩)

/-- Everything a step can do: the next event is the core's, by the list or with the list used up, or the host's
(spec/20_memory.md R76). -/
theorem step_cases (s : State) :
    (s.turns = [] ∧ step s = coreStep s) ∨
    (∃ later, s.turns = .core :: later ∧ step s = coreStep { s with turns := later }) ∨
    ∃ action later, s.turns = .host action :: later ∧ step s = .next ({ s with turns := later }.hostAct action) := by
  rcases h : s.turns with _ | ⟨_ | _, later⟩
  · exact .inl ⟨rfl, by simp [step, nextEvent, h]⟩
  · exact .inr (.inr ⟨_, later, rfl, by simp [step, nextEvent, h]⟩)
  · exact .inr (.inl ⟨later, rfl, by simp [step, nextEvent, h]⟩)

end Sys2Proof.Machine
end

