-- ==== Sys2Proof/Laws/Memory.lean ====
section
/-! SUPPORT. What the memory operations do: read after write, and the canonical form is kept (assumption log 2). -/

namespace Sys2Proof.Machine

/-- A read after a write gives the written byte at its own offset and what was there before anywhere else. -/
theorem Memory.lookup_write (m : Memory) (addr : Nat) (v : Byte) (x : Nat) :
    Memory.lookup (Memory.write m addr v) x = if x = addr then some v else Memory.lookup m x := by
  induction m with
  | nil => simp [Memory.write, Memory.lookup, eq_comm]
  | cons c m ih =>
    obtain ⟨k, w⟩ := c
    simp only [Memory.write]
    split
    · by_cases hx : x = addr
      · simp [Memory.lookup, hx]
      · simp [Memory.lookup, hx, Ne.symm hx]
    · split
      · rename_i h; subst h
        by_cases hx : x = addr
        · simp [Memory.lookup, hx]
        · simp [Memory.lookup, hx, Ne.symm hx]
      · rename_i h1 h2
        simp only [Memory.lookup, ih]
        by_cases hk : k = x
        · subst hk; simp [Ne.symm h2]
        · simp [hk]

/-- The bytes of a sequence written land at consecutive offsets and nowhere else. -/
theorem Memory.lookup_writeBytes (m : Memory) (addr : Nat) (bs : List Byte) (x : Nat) :
    Memory.lookup (Memory.writeBytes m addr bs) x =
      if addr ≤ x ∧ x < addr + bs.length then some (bs.getD (x - addr) 0) else Memory.lookup m x := by
  induction bs generalizing m addr with
  | nil => simp [Memory.writeBytes]
  | cons b bs ih =>
    rw [Memory.writeBytes, ih, Memory.lookup_write]
    rcases Nat.lt_trichotomy x addr with h | h | h
    · rw [if_neg (by omega), if_neg (by omega), if_neg (by omega)]
    · subst h; simp
    · have e : x - addr = (x - (addr + 1)) + 1 := by omega
      by_cases h2 : x < addr + 1 + bs.length
      · rw [if_pos ⟨by omega, h2⟩, if_pos ⟨by omega, by simp only [List.length_cons]; omega⟩, e]
        simp [List.getD]
      · rw [if_neg (by omega), if_neg (by omega), if_neg (by simp only [List.length_cons]; omega)]

/-- Every offset of a memory in canonical form after the first is above it. -/
theorem Memory.wf_cons (c : Host.Cell) (m : Memory) :
    Memory.wf (c :: m) = true ↔ (∀ d ∈ m.head?, c.1 < d.1) ∧ Memory.wf m = true := by
  cases m with
  | nil => simp [Memory.wf]
  | cons d m => obtain ⟨k, v⟩ := c; obtain ⟨l, w⟩ := d; simp [Memory.wf]

theorem Memory.write_head (m : Memory) (addr : Nat) (v : Byte) (d : Host.Cell)
    (h : d ∈ (Memory.write m addr v).head?) : d.1 = addr ∨ d ∈ m.head? := by
  cases m with
  | nil => simp [Memory.write] at h; simp [← h]
  | cons c m =>
    obtain ⟨k, w⟩ := c
    simp only [Memory.write] at h
    split at h
    · simp at h; simp [← h]
    · split at h
      · simp at h; simp [← h]
      · simp at h; simp [h]

/-- A write keeps the canonical form. -/
theorem Memory.write_wf (m : Memory) (addr : Nat) (v : Byte) (h : Memory.wf m = true) :
    Memory.wf (Memory.write m addr v) = true := by
  induction m with
  | nil => rfl
  | cons c m ih =>
    obtain ⟨k, w⟩ := c
    have hm := (Memory.wf_cons _ _).1 h
    simp only [Memory.write]
    split
    · rename_i hlt
      exact (Memory.wf_cons _ _).2 ⟨by simp [hlt], h⟩
    · split
      · rename_i heq; subst heq
        exact (Memory.wf_cons _ _).2 ⟨hm.1, hm.2⟩
      · refine (Memory.wf_cons _ _).2 ⟨fun d hd => ?_, ih hm.2⟩
        rcases Memory.write_head _ _ _ _ hd with h1 | h1
        · show k < d.1; omega
        · exact hm.1 d h1

/-- A byte sequence written keeps the canonical form. -/
theorem Memory.writeBytes_wf (m : Memory) (addr : Nat) (bs : List Byte) (h : Memory.wf m = true) :
    Memory.wf (Memory.writeBytes m addr bs) = true := by
  induction bs generalizing m addr with
  | nil => exact h
  | cons b bs ih => exact ih _ _ (Memory.write_wf _ _ _ h)

/-- An entry after a write is the written one or was there before. -/
theorem Memory.mem_write (m : Memory) (addr : Nat) (v : Byte) (c : Host.Cell) (h : c ∈ Memory.write m addr v) :
    c.1 = addr ∨ c ∈ m := by
  induction m with
  | nil => simp [Memory.write] at h; simp [h]
  | cons d m ih =>
    obtain ⟨k, w⟩ := d
    simp only [Memory.write] at h
    split at h
    · rcases List.mem_cons.1 h with h | h
      · simp [h]
      · exact .inr h
    · split at h
      · rcases List.mem_cons.1 h with h | h
        · simp [h]
        · exact .inr (List.mem_cons_of_mem _ h)
      · rcases List.mem_cons.1 h with h | h
        · simp [h]
        · exact (ih h).imp_right (List.mem_cons_of_mem _)

theorem Memory.mem_writeBytes (m : Memory) (addr : Nat) (bs : List Byte) (c : Host.Cell)
    (h : c ∈ Memory.writeBytes m addr bs) : (addr ≤ c.1 ∧ c.1 < addr + bs.length) ∨ c ∈ m := by
  induction bs generalizing m addr with
  | nil => exact .inr h
  | cons b bs ih =>
    rcases ih _ _ h with h | h
    · exact .inl ⟨by omega, by simp only [List.length_cons]; omega⟩
    · rcases Memory.mem_write _ _ _ _ h with h | h
      · exact .inl ⟨by omega, by simp only [List.length_cons]; omega⟩
      · exact .inr h

/-- The memory after reset has the canonical form. -/
theorem State.reset_mem_wf : Memory.wf State.reset.mem = true := rfl

/-- One byte after a byte sequence is written. -/
theorem State.byteAt_writeBytes (s : State) (addr : Nat) (bs : List Byte) (x : Nat) :
    (s.writeBytes addr bs).byteAt x = if addr ≤ x ∧ x < addr + bs.length then bs.getD (x - addr) 0 else s.byteAt x := by
  simp only [State.byteAt, State.writeBytes, Memory.lookup_writeBytes]
  split <;> simp

@[simp] theorem State.readBytes_length (s : State) (addr n : Nat) : (s.readBytes addr n).length = n := by
  simp [State.readBytes]

theorem State.readBytes_getD (s : State) (addr n i : Nat) (h : i < n) :
    (s.readBytes addr n).getD i 0 = s.byteAt (addr + i) := by
  simp [State.readBytes, List.getD, h]

end Sys2Proof.Machine
end

