-- ==== Sys2Proof/Laws/PerInstr.lean ====
section
/-! SUPPORT. Facts of every command as syntax, one lemma per constructor of Instr. -/

namespace Sys2Proof.Laws

/-- The word of a command lies in its row of the opcode map: `(w AND mask) = match` (spec/30_encoding.md R96). -/
def EncodesItsRow.Statement (i : Instr) : Prop := encode i &&& i.opcode.mask = i.opcode.code

theorem EncodesItsRow.nop : EncodesItsRow.Statement .nop := by unfold EncodesItsRow.Statement; decide

theorem EncodesItsRow.ecadd (d a b : QIdx) : EncodesItsRow.Statement (.ecadd d a b) := by
  unfold EncodesItsRow.Statement; revert d a b; decide

theorem EncodesItsRow.ecdbl (d a : QIdx) : EncodesItsRow.Statement (.ecdbl d a) := by
  unfold EncodesItsRow.Statement; revert d a; decide

theorem EncodesItsRow.ecmul (d a : QIdx) (b : RIdx) (neg : Bool) : EncodesItsRow.Statement (.ecmul d a b neg) := by
  unfold EncodesItsRow.Statement; revert d a b neg; decide

theorem EncodesItsRow.ecchk (a : QIdx) : EncodesItsRow.Statement (.ecchk a) := by
  unfold EncodesItsRow.Statement; revert a; decide

theorem EncodesItsRow.ecdisc : EncodesItsRow.Statement .ecdisc := by unfold EncodesItsRow.Statement; decide

theorem EncodesItsRow.modinv (d a : RIdx) : EncodesItsRow.Statement (.modinv d a) := by
  unfold EncodesItsRow.Statement; revert d a; decide

theorem EncodesItsRow.modsqrt (d a : RIdx) : EncodesItsRow.Statement (.modsqrt d a) := by
  unfold EncodesItsRow.Statement; revert d a; decide

theorem EncodesItsRow.aeskeyx (a : QIdx) : EncodesItsRow.Statement (.aeskeyx a) := by
  unfold EncodesItsRow.Statement; revert a; decide

theorem EncodesItsRow.keyexp : EncodesItsRow.Statement .keyexp := by unfold EncodesItsRow.Statement; decide

theorem EncodesItsRow.aesenc : EncodesItsRow.Statement .aesenc := by unfold EncodesItsRow.Statement; decide

theorem EncodesItsRow.aesdec : EncodesItsRow.Statement .aesdec := by unfold EncodesItsRow.Statement; decide

theorem EncodesItsRow.subbytes : EncodesItsRow.Statement .subbytes := by unfold EncodesItsRow.Statement; decide

theorem EncodesItsRow.invsubbytes : EncodesItsRow.Statement .invsubbytes := by unfold EncodesItsRow.Statement; decide

theorem EncodesItsRow.shiftrows : EncodesItsRow.Statement .shiftrows := by unfold EncodesItsRow.Statement; decide

theorem EncodesItsRow.invshiftrows : EncodesItsRow.Statement .invshiftrows := by unfold EncodesItsRow.Statement; decide

theorem EncodesItsRow.mixcolumns : EncodesItsRow.Statement .mixcolumns := by unfold EncodesItsRow.Statement; decide

theorem EncodesItsRow.invmixcolumns : EncodesItsRow.Statement .invmixcolumns := by
  unfold EncodesItsRow.Statement; decide

theorem EncodesItsRow.addrk (rnd : BitVec 4) : EncodesItsRow.Statement (.addrk rnd) := by
  unfold EncodesItsRow.Statement; revert rnd; decide

theorem EncodesItsRow.cbcenc : EncodesItsRow.Statement .cbcenc := by unfold EncodesItsRow.Statement; decide

theorem EncodesItsRow.cbcdec : EncodesItsRow.Statement .cbcdec := by unfold EncodesItsRow.Statement; decide

end Sys2Proof.Laws
end

