-- ==== Sys2Proof/Laws/Tonelli.lean ====
section
/-! SUPPORT. What the loop of Tonelli–Shanks does, as a run of its passes (spec/40_modular.md R126). -/

namespace Sys2Proof.Machine

/-- `n = q * 2^e` with `q` odd has one such pair. -/
theorem oddPart_unique (q1 q2 e1 e2 : Nat) (h1 : q1 % 2 = 1) (h2 : q2 % 2 = 1) (h : q1 * 2 ^ e1 = q2 * 2 ^ e2) :
    q1 = q2 ∧ e1 = e2 := by
  induction e1 generalizing e2 with
  | zero =>
    cases e2 with
    | zero => simpa using h
    | succ e2 => rw [Nat.pow_succ, ← Nat.mul_assoc] at h; omega
  | succ e1 ih =>
    cases e2 with
    | zero => rw [Nat.pow_succ, ← Nat.mul_assoc] at h; omega
    | succ e2 =>
      rw [Nat.pow_succ, Nat.pow_succ, ← Nat.mul_assoc, ← Nat.mul_assoc] at h
      have := ih e2 (by omega)
      exact ⟨this.1, by omega⟩

/-- Everything the loop can do, with fuel `m >= 1`: its passes lead to variables from which it returns `r`, because `t = 1`,
or gives up, because no `i` exists. -/
theorem tsLoop_runs (P fuel m c t r : Nat) (hm : 1 ≤ m) (hf : m ≤ fuel) :
    ∃ last : TonelliVars, Relation.ReflTransGen (TonelliPass P) { m := m, c := c, t := t, r := r } last ∧
      ((last.t = 1 ∧ tsLoop fuel m c t r P = some last.r) ∨
        (last.t ≠ 1 ∧ (∀ i, 1 ≤ i → i < last.m → last.t ^ 2 ^ i % P ≠ 1) ∧ tsLoop fuel m c t r P = none)) := by
  induction fuel generalizing m c t r with
  | zero => omega
  | succ fuel ih =>
    by_cases ht : t = 1
    · exact ⟨_, .refl, .inl ⟨ht, by simp [tsLoop, ht]⟩⟩
    · cases hi : leastFrom (fun i => modexp t (2 ^ i) P == 1) (m - 1) 1 with
      | none =>
        refine ⟨_, .refl, .inr ⟨ht, ?_, by simp [tsLoop, ht, hi]⟩⟩
        intro i h1 h2
        have := leastFrom_none _ _ _ hi i h1 (by simp only at h2; omega)
        simpa [modexp_eq] using this
      | some i =>
        obtain ⟨h1, h2, h3, h4⟩ := leastFrom_some _ _ _ _ hi
        simp only [modexp_eq, beq_iff_eq] at h3
        have hpass : TonelliPass P { m := m, c := c, t := t, r := r }
            { m := i, c := (c ^ 2 ^ (m - i - 1) % P) * (c ^ 2 ^ (m - i - 1) % P) % P
              t := t * ((c ^ 2 ^ (m - i - 1) % P) * (c ^ 2 ^ (m - i - 1) % P) % P) % P
              r := r * (c ^ 2 ^ (m - i - 1) % P) % P } := by
          refine ⟨ht, i, _, h1, by simp only; omega, h3, ?_, rfl, rfl⟩
          intro j hj1 hj2
          simpa [modexp_eq] using h4 j hj1 hj2
        obtain ⟨last, hrun, hend⟩ := ih i _ _ _ h1 (by omega)
        refine ⟨last, .head hpass hrun, ?_⟩
        have hstep : tsLoop (fuel + 1) m c t r P =
            tsLoop fuel i ((c ^ 2 ^ (m - i - 1) % P) * (c ^ 2 ^ (m - i - 1) % P) % P)
              (t * ((c ^ 2 ^ (m - i - 1) % P) * (c ^ 2 ^ (m - i - 1) % P) % P) % P) (r * (c ^ 2 ^ (m - i - 1) % P) % P) P := by
          simp only [tsLoop, ht, if_false, hi]
          simp only [modexp_eq]
        rw [hstep]
        exact hend

end Sys2Proof.Machine
end

