-- ==== Sys2Proof/Tests/Slice0.lean ====
section
/-! SUPPORT. Tests on fixed values and, for every statement with hypotheses, a state that meets them. Expected results are the
spec's own examples and vectors (spec/95_test_vectors.md, V-…), or follow from the rule named. -/

namespace Sys2Proof.Tests

open Sys2Proof.Machine

/-- The state an outcome leads to. -/
def after (o : Host.Outcome State Fault Refusal) : State :=
  match o with
  | .next t => t
  | .fault reason => nomatch reason
  | .refused _ => State.reset

/-- A block written as the spec writes it: hex bytes, byte 0 first. -/
def block (v : Nat) : Block := mkBlock fun k => BitVec.ofNat 8 (v / 256 ^ (15 - k))

/-- A finite point. -/
def point (x y : Nat) : PointReg := { inf := false, x := BitVec.ofNat 256 x, y := BitVec.ofNat 256 y }

/-- A field state: P, A, B, `R0`, `Q0` and `Q1` given, the rest as after reset. -/
def field (p a b r0 : Nat) (q0 q1 : PointReg) : State :=
  { State.reset with
    p := BitVec.ofNat 256 p, a := BitVec.ofNat 256 a, b := BitVec.ofNat 256 b
    r := (Vector.replicate 8 0).set 0 (BitVec.ofNat 256 r0)
    q := ((Vector.replicate 4 PointReg.reset).set 0 q0).set 1 q1 }

/-- The curve E17 of V-EC-1: P = 17, A = 2, B = 2. -/
def e17 (r0 : Nat) (q0 q1 : PointReg) : State := field 17 2 2 r0 q0 q1

/-- A cipher state: STATE and KEY given, RKV = 1 and the schedule of KEY. -/
def cipher (state key : Nat) : State :=
  { State.reset with
    block := block state, key := block key, rk := keyExpansion (block key), status := { Status.reset with rkv := true } }

/-- RKV = 1 over an all-zero schedule, and ILEN: enough where only the checks matter. -/
def keyed (ilen : Nat) : State :=
  { State.reset with ilen := BitVec.ofNat 32 ilen, status := { Status.reset with rkv := true } }

/-- The key and the draw of section 5 of the vectors, with a message in IBUF. -/
def cbc (message : List Byte) (ilen : Nat) : State :=
  { cipher 0 0x2b7e151628aed2a6abf7158809cf4f3c with
    ilen := BitVec.ofNat 32 ilen, mem := Memory.writeBytes [] 0x4000 message
    ivSupply := [block 0x000102030405060708090a0b0c0d0e0f] }

/-- A state with the word `w` pending. -/
def busy (w : Word) : State := { State.reset with latch := w, status := { Status.reset with busy := true } }

/-! ### Well-formed terms, decoding, encoding -/

/-- R93: 10 is the last legal round index, 11 is refused. -/
theorem test_round_index_checked : WellFormed (.addrk 10) = true ∧ WellFormed (.addrk 11) = false := by decide

/-- V-ENC-1: a written-out word of every command, the curve and modular ones. -/
theorem test_decode_field_words :
    decode 0x00000000 = .ok .nop ∧ decode 0x00010201 = .ok (.ecadd 2 0 1) ∧ decode 0x00013301 = .ok (.ecadd 3 3 1) ∧
    decode 0x00001302 = .ok (.ecdbl 3 1) ∧ decode 0x00021203 = .ok (.ecmul 2 1 2 false) ∧
    decode 0x00070103 = .ok (.ecmul 1 0 7 false) ∧ decode 0x00100103 = .ok (.ecmul 1 0 0 true) ∧
    decode 0x00003004 = .ok (.ecchk 3) ∧ decode 0x00000005 = .ok .ecdisc ∧ decode 0x00001208 = .ok (.modinv 2 1) ∧
    decode 0x00000109 = .ok (.modsqrt 1 0) := by decide

/-- V-ENC-1: a written-out word of every AES and CBC command. -/
theorem test_decode_cipher_words :
    decode 0x00003010 = .ok (.aeskeyx 3) ∧ decode 0x00000011 = .ok .keyexp ∧ decode 0x00000012 = .ok .aesenc ∧
    decode 0x00000013 = .ok .aesdec ∧ decode 0x00000014 = .ok .subbytes ∧ decode 0x00000015 = .ok .invsubbytes ∧
    decode 0x00000016 = .ok .shiftrows ∧ decode 0x00000017 = .ok .invshiftrows ∧ decode 0x00000018 = .ok .mixcolumns ∧
    decode 0x00000019 = .ok .invmixcolumns ∧ decode 0x0A00001A = .ok (.addrk 10) ∧ decode 0x00000020 = .ok .cbcenc ∧
    decode 0x00000021 = .ok .cbcdec := by decide

/-- V-ENC-2: illegal words, each with its reason. -/
theorem test_decode_illegal_words :
    decode 0x00000006 = .error .unassignedOpcode ∧ decode 0x0000000A = .error .unassignedOpcode ∧
    decode 0x0000001B = .error .unassignedOpcode ∧ decode 0x00000022 = .error .unassignedOpcode ∧
    decode 0x000000FF = .error .unassignedOpcode ∧ decode 0x10000000 = .error .fixedBitSet ∧
    decode 0x00200003 = .error .fixedBitSet ∧ decode 0x00000401 = .error .fixedBitSet ∧
    decode 0x00000802 = .error .fixedBitSet ∧ decode 0x00080103 = .error .fixedBitSet ∧
    decode 0x00008008 = .error .fixedBitSet ∧ decode 0x00100001 = .error .fixedBitSet ∧
    decode 0x00000104 = .error .fixedBitSet ∧ decode 0x00000112 = .error .fixedBitSet ∧
    decode 0x01000012 = .error .fixedBitSet ∧ decode 0x0B00001A = .error .roundOutOfRange ∧
    decode 0x0F00001A = .error .roundOutOfRange := by decide

/-- V-ENC-1 the other way: the encoder writes the spec's words. -/
theorem test_encode_words :
    encode (.ecadd 3 3 1) = 0x00013301 ∧ encode (.ecmul 1 0 0 true) = 0x00100103 ∧ encode (.modinv 2 1) = 0x00001208 ∧
    encode (.aeskeyx 3) = 0x00003010 ∧ encode (.addrk 10) = 0x0A00001A ∧ encode .cbcdec = 0x00000021 := by decide

/-! ### Modular and curve commands -/

/-- V-MOD-2: P = 467, 28 has the inverse 417. -/
theorem test_modinv : (after (exec (.modinv 1 0) (field 467 0 0 28 PointReg.reset PointReg.reset))).r[1] = 417 := by
  decide +kernel

/-- V-MOD-10: P = 17, R0 = 17 gives E_RANGE. -/
theorem test_modinv_range : (after (exec (.modinv 1 0) (e17 17 PointReg.reset PointReg.reset))).status.toWord = 0x36 := by
  decide +kernel

/-- V-MOD-5: P = 17, the general path, `d = a`: 2 has the root 6. -/
theorem test_modsqrt : (after (exec (.modsqrt 0 0) (e17 2 PointReg.reset PointReg.reset))).r[0] = 6 := by decide +kernel

/-- V-MOD-3: P = 467, the fast path returns 465, not 2. -/
theorem test_modsqrt_fast : (after (exec (.modsqrt 1 0) (field 467 0 0 4 PointReg.reset PointReg.reset))).r[1] = 465 := by
  decide +kernel

/-- V-EC-2: 2G + 4G = 6G. -/
theorem test_ecadd : (after (exec (.ecadd 2 0 1) (e17 0 (point 6 3) (point 3 1)))).q[2] = point 16 13 := by decide +kernel

/-- V-EC-6: equal x, neither inverse nor equal. -/
theorem test_ecadd_off_curve : (after (exec (.ecadd 2 0 1) (e17 0 (point 5 1) (point 5 3)))).q[2] = point 7 16 := by
  decide +kernel

/-- V-EC-3: 6G doubles to 12G. -/
theorem test_ecdbl : (after (exec (.ecdbl 1 0) (e17 0 (point 16 13) PointReg.reset))).q[1] = point 0 11 := by
  decide +kernel

/-- V-EC-5: -3G. -/
theorem test_ecmul_neg : (after (exec (.ecmul 1 0 0 true) (e17 3 (point 5 1) PointReg.reset))).q[1] = point 10 11 := by
  decide +kernel

/-- V-EC-5: the largest scalar gives 15G, with no reduction of it. -/
theorem test_ecmul_max :
    (after (exec (.ecmul 1 0 0 false) (e17 (2 ^ 256 - 1) (point 5 1) PointReg.reset))).q[1] = point 3 16 := by
  decide +kernel

/-- V-EC-8, W1: (28, 23) is on the curve, the source's (28, 2) is not. -/
theorem test_ecchk :
    (after (exec (.ecchk 0) (field 467 2 3 0 (point 28 23) PointReg.reset))).status.toWord = 0x102 ∧
    (after (exec (.ecchk 0) (field 467 2 3 0 (point 28 2) PointReg.reset))).status.toWord = 0x002 := by decide +kernel

/-- V-EC-9: NONSING = 1 on P = 467, A = 2, B = 3, and 0 on A = B = 0. -/
theorem test_ecdisc :
    (after (exec .ecdisc (field 467 2 3 0 PointReg.reset PointReg.reset))).status.toWord = 0x202 ∧
    (after (exec .ecdisc (field 17 0 0 0 PointReg.reset PointReg.reset))).status.toWord = 0x002 := by decide +kernel

/-! ### AES and CBC commands -/

/-- V-AES-5: the bits of x above 127 are dropped, and RKV is cleared. -/
theorem test_aeskeyx :
    let t := after (exec (.aeskeyx 0) { keyed 0 with q := Vector.replicate 4 (point (2 ^ 200 + 0x0102) 0) })
    t.key = block 0x02010000000000000000000000000000 ∧ t.status.toWord = 0x002 := by decide +kernel

/-- V-AES-3: the last round key of the FIPS-197 key. -/
theorem test_keyexp :
    (after (exec .keyexp { State.reset with key := block 0x2b7e151628aed2a6abf7158809cf4f3c })).rk[10] =
      block 0xd014f9a8c9ee2589e13f0cc8b6630ca6 := by decide +kernel

/-- V-AES-2. -/
theorem test_aesenc :
    (after (exec .aesenc (cipher 0x00112233445566778899aabbccddeeff 0x000102030405060708090a0b0c0d0e0f))).block =
      block 0x69c4e0d86a7b0430d8cdb78070b4c55a := by decide +kernel

/-- V-AES-1: AESDEC of 0 under the zero key. -/
theorem test_aesdec : (after (exec .aesdec (cipher 0 0))).block = block 0x140f0f1011b5223d79587717ffd9ec3a := by
  decide +kernel

/-- V-AES-4: the rows of the table, each command on the row before, and back. -/
theorem test_transforms :
    let run := fun (i : Instr) (v : Nat) => (after (exec i { State.reset with block := block v })).block
    run .subbytes 0x193de3bea0f4e22b9ac68d2ae9f84808 = block 0xd42711aee0bf98f1b8b45de51e415230 ∧
    run .invsubbytes 0xd42711aee0bf98f1b8b45de51e415230 = block 0x193de3bea0f4e22b9ac68d2ae9f84808 ∧
    run .shiftrows 0xd42711aee0bf98f1b8b45de51e415230 = block 0xd4bf5d30e0b452aeb84111f11e2798e5 ∧
    run .invshiftrows 0x000102030405060708090a0b0c0d0e0f = block 0x000d0a0704010e0b0805020f0c090603 ∧
    run .mixcolumns 0xdb135345f20a225c01010101c6c6c6c6 = block 0x8e4da1bc9fdc589d01010101c6c6c6c6 ∧
    run .invmixcolumns 0x046681e5e0cb199a48f8d37a2806264c = block 0xd4bf5d30e0b452aeb84111f11e2798e5 := by decide +kernel

/-- V-AES-4: ADDRK 1 after MIXCOLUMNS. -/
theorem test_addrk :
    (after (exec (.addrk 1) (cipher 0x046681e5e0cb199a48f8d37a2806264c 0x2b7e151628aed2a6abf7158809cf4f3c))).block =
      block 0xa49c7ff2689f352b6b5bea43026a5049 := by decide +kernel

/-- V-CBC-1: "hello". -/
theorem test_cbcenc :
    let t := after (exec .cbcenc (cbc [0x68, 0x65, 0x6c, 0x6c, 0x6f] 5))
    t.olen = 32 ∧ t.blockAt 0x8000 = block 0x000102030405060708090a0b0c0d0e0f ∧
    t.blockAt 0x8010 = block 0xd8666ea8aad65cc08354b4bc43d4ff56 := by decide +kernel

/-- V-CBC-7, fourth row: a message that ends in 02 02 is stripped. -/
theorem test_cbcdec :
    let payload := blk (block 0x000102030405060708090a0b0c0d0e0f) ++ blk (block 0x214d7609a4194d457c029bbd7166436a)
    let t := after (exec .cbcdec (cbc payload 32))
    t.olen = 14 ∧ t.status.padv = true ∧ t.readBytes 0x8000 14 = List.replicate 14 0x41 := by decide +kernel

/-! ### Steps and the port -/

/-- V-ENC-3, V-AES-6: the first step after reset runs the stored word; AESENC has no key yet, 0x06 is illegal. -/
theorem test_first_step :
    (after (step (State.reset.withFetchWord 32 0x12))).status.toWord = 0x56 ∧
    (after (step (State.reset.withFetchWord 32 0x06))).status.toWord = 0x16 := by decide +kernel

/-- V-ENC-4: while BUSY a write to R0 and one to CMD are dropped with BUSYERR; one to CTRL takes effect. -/
theorem test_busy_protocol :
    (after (step ((busy 0x103).facingWrite 0x200 5))) =
      { busy 0x103 with status := { (busy 0x103).status with busyerr := true }, response := .written } ∧
    (after (step ((busy 0x103).facingWrite 0x00C 0x11))).latch = 0x103 ∧
    (after (step ((busy 0x103).facingWrite 0x004 1))).ctrl.ie = true := by decide +kernel

/-- R63 and R64: `W 0x100, 0x000001D3` writes P = 467, and the word of IBUF at 0x4004 is bytes 4 to 7. -/
theorem test_port_words :
    (after (step (State.reset.facingWrite 0x100 0x000001D3))).p = 467 ∧
    (after (step (State.reset.facingWrite 0x4004 0x64636261))).mem =
      [(0x4004, 0x61), (0x4005, 0x62), (0x4006, 0x63), (0x4007, 0x64)] ∧
    (after (step (State.reset.facingRead 0x0000))).response = .data 0x53530007 := by decide +kernel

/-- Log 2: reset's memory has the canonical form. -/
theorem test_reset_memory_canonical : Memory.wf State.reset.mem = true := by decide

/-! ### States that meet the hypotheses of the statements -/

/-- IllegalWordsAndTheirCompletion, at the first illegal round index. -/
theorem witness_illegal_pending :
    (busy 0x0B00001A).status.busy = true ∧ decode (busy 0x0B00001A).latch = .error .roundOutOfRange := by decide

/-- StepRunsTheDecodedCommand (both clauses), PendingCommandEnds. -/
theorem witness_command_pending :
    (busy 0x0A00001A).status.busy = true ∧ decode (busy 0x0A00001A).latch = .ok (.addrk 10) ∧
    (busy 0x0A00001A).turns = [] := by decide

/-- CommandWriteIssuesOrIsDropped: both values of BUSY. -/
theorem witness_command_write : State.reset.status.busy = false ∧ (busy 0x12).status.busy = true := by decide

/-- FailedCommandWritesNothingElse: AESENC without a key. -/
theorem witness_failed_command :
    exec .aesenc State.reset = .next (State.reset.completedWith .nokey) ∧
    (State.reset.completedWith .nokey).status.errcode ≠ .ok := ⟨rfl, by decide⟩

/-- CompletionAndCommandWriteInEitherOrder, PointCommandsIgnoreB's shape of hypothesis for NOP. -/
theorem witness_completion_and_write :
    (busy 0).status.busy = true ∧ decode (busy 0).latch = .ok .nop ∧
    exec .nop (busy 0) = .next ((busy 0).completedWith .ok) := ⟨rfl, by decide, rfl⟩

/-- ModulusErrorComesFirst, both clauses at their boundaries: P = 2 and P = 4. -/
theorem witness_modulus_error :
    (Instr.modinv 1 0).isFieldCommand = true ∧ (field 2 0 0 0 PointReg.reset PointReg.reset).p.toNat < 3 ∧
    (field 4 0 0 0 PointReg.reset PointReg.reset).p.toNat % 2 = 0 := by decide

/-- RangeErrorComesSecond, with operands equal to P: a field register, and the y of a point. -/
theorem witness_range_error :
    let s := field 3 2 2 3 (point 2 3) PointReg.reset
    s.ModulusOk ∧ (Instr.modinv 1 0).isFieldCommand = true ∧ (Instr.modinv 1 0).readsFieldValue s 3 ∧
    (Instr.ecadd 2 1 0).isFieldCommand = true ∧ (Instr.ecadd 2 1 0).readsFieldValue s 3 ∧
    s.p.toNat ≤ (3 : Field).toNat :=
  ⟨⟨by decide, by decide⟩, rfl, by rfl, rfl, .inr (.inr ⟨by rfl, .inr (by rfl)⟩), by decide⟩

/-- NoKeyErrorWithoutRoundKeys. -/
theorem witness_no_key :
    WellFormed (.addrk 10) = true ∧ (Instr.addrk 10).needsKey = true ∧ State.reset.status.rkv = false := by decide

/-- LengthErrors: each clause at its boundary, BUF_BYTES being 4096. -/
theorem witness_lengths :
    (keyed 4080).status.rkv = true ∧
    (keyed 4097).bufBytes < (keyed 4097).ilen.toNat ∧ (keyed 4080).bufBytes < 16 * ((keyed 4080).ilen.toNat / 16 + 2) ∧
    (keyed 33).ilen.toNat % 16 ≠ 0 ∧ (keyed 16).ilen.toNat < 32 ∧ (keyed 4112).bufBytes < (keyed 4112).ilen.toNat := by
  decide

/-- ModinvWritesFermatInverse, ModsqrtNeverReturnsAWrongRoot, ModsqrtFindsEveryRootForPrimes: P = 17 and the square 2. -/
theorem witness_modular :
    let s := e17 2 PointReg.reset PointReg.reset
    s.ModulusOk ∧ s.r[(0 : RIdx)].toNat < s.p.toNat ∧ s.p.toNat.Prime ∧ s.r[(0 : RIdx)].toNat ≠ 0 ∧
    s.r[(1 : RIdx)].toNat = 0 ∧ ∃ x : Nat, x * x % s.p.toNat = s.r[(0 : RIdx)].toNat :=
  ⟨⟨by decide, by decide⟩, by decide, (by norm_num : Nat.Prime 17), by decide, by decide, 6, by decide⟩

/-- ModsqrtLegendreAndFastPath, its clauses with P = 3: the operands 0, 2 (no residue) and 1. -/
theorem witness_modsqrt_clauses :
    let s := fun n => field 3 0 0 n PointReg.reset PointReg.reset
    (s 0).ModulusOk ∧ (s 0).r[(0 : RIdx)].toNat = 0 ∧
    ((s 2).ModulusOk ∧ (s 2).r[(0 : RIdx)].toNat < 3 ∧ (s 2).r[(0 : RIdx)].toNat ^ ((3 - 1) / 2) % 3 ≠ 1) ∧
    ((s 1).ModulusOk ∧ (s 1).r[(0 : RIdx)].toNat ≠ 0 ∧ (s 1).r[(0 : RIdx)].toNat ^ ((3 - 1) / 2) % 3 = 1 ∧
      (s 1).p.toNat % 4 = 3) :=
  ⟨⟨by decide, by decide⟩, by decide, ⟨⟨by decide, by decide⟩, by decide, by decide⟩,
    ⟨by decide, by decide⟩, by decide, by decide, by decide⟩

/-- ModsqrtLegendreAndFastPath for P mod 4 = 1: V-MOD-5 (P = 17, n = 2: q = 1, e = 4, z = 3), and P = 9, n = 1, where no `z`
exists. -/
theorem witness_modsqrt_general :
    (2 ^ ((17 - 1) / 2) % 17 = 1 ∧ 17 % 4 = 1 ∧ 17 - 1 = 1 * 2 ^ 4 ∧ 3 ^ ((17 - 1) / 2) % 17 = 17 - 1 ∧
      ∀ y < 3, 2 ≤ y → y ^ ((17 - 1) / 2) % 17 ≠ 17 - 1) ∧
    (1 ^ ((9 - 1) / 2) % 9 = 1 ∧ 9 % 4 = 1 ∧ 9 - 1 = 1 * 2 ^ 3 ∧
      ∀ z < 9, 2 ≤ z → z ^ ((9 - 1) / 2) % 9 ≠ 9 - 1) ∧
    (field 9 0 0 1 PointReg.reset PointReg.reset).ModulusOk ∧
    (field 9 0 0 1 PointReg.reset PointReg.reset).r[(0 : RIdx)].toNat = 1 :=
  ⟨by decide, by decide, ⟨by decide, by decide⟩, by decide⟩

/-- The hypotheses of the curve statements on E17: two finite points, coordinates up to P - 1. -/
theorem witness_curve_operands :
    let s := e17 0 (point 16 13) (point 5 16)
    s.ModulusOk ∧ s.a.toNat < s.p.toNat ∧ s.b.toNat < s.p.toNat ∧ s.PointOk 0 ∧ s.PointOk 1 ∧ s.p.toNat.Prime :=
  ⟨⟨by decide, by decide⟩, by decide, by decide, fun _ => ⟨by decide, by decide⟩, fun _ => ⟨by decide, by decide⟩,
    (by norm_num : Nat.Prime 17)⟩

/-- EcaddIdentity, EcmulByZeroAndOne: INF with coordinates above P is an operand that passes the range check (V-EC-4). -/
theorem witness_identity :
    let s := e17 0 { inf := true, x := 100, y := 7 } (point 6 3)
    s.ModulusOk ∧ s.a.toNat < s.p.toNat ∧ s.PointOk 0 ∧ s.PointOk 1 ∧ s.q[(0 : QIdx)].inf = true ∧
    s.q[(1 : QIdx)].inf = false :=
  ⟨⟨by decide, by decide⟩, by decide, nofun, fun _ => ⟨by decide, by decide⟩, by decide, by decide⟩

/-- EcaddChord and EcaddSameX: different x; one x with inverse y; one x with y neither. -/
theorem witness_addition_cases :
    (point 5 1).inf = false ∧ (point 5 1).x ≠ (point 6 3).x ∧
    ((point 5 1).x = (point 5 16).x ∧ ((point 5 1).y.toNat + (point 5 16).y.toNat) % 17 = 0) ∧
    ((point 5 1).x = (point 5 3).x ∧ ((point 5 1).y.toNat + (point 5 3).y.toNat) % 17 ≠ 0 ∧
      (point 5 1).y ≠ (point 5 3).y) := by decide

/-- EcaddOfOnePointIsEcdbl: two registers that hold one finite point with y not 0. -/
theorem witness_one_point_twice :
    (e17 0 (point 5 1) (point 5 1)).q[(0 : QIdx)] = (e17 0 (point 5 1) (point 5 1)).q[(1 : QIdx)] ∧ (point 5 1).y ≠ 0 := by
  decide

/-- EcdblTangent: INF, `y = 0`, and a finite point with `y = P - 1`. -/
theorem witness_doubling_cases :
    let s := e17 0 (point 3 0) (point 5 16)
    s.PointOk 0 ∧ s.PointOk 1 ∧ s.q[(0 : QIdx)].y = 0 ∧ s.q[(2 : QIdx)].inf = true ∧ s.q[(1 : QIdx)].inf = false ∧
    s.q[(1 : QIdx)].y ≠ 0 :=
  ⟨fun _ => ⟨by decide, by decide⟩, fun _ => ⟨by decide, by decide⟩, by decide, by decide, by decide, by decide⟩

/-- EcmulDoublesAndAdds and EcmulByZeroAndOne: the scalars 0 and 1 with a finite point. -/
theorem witness_scalars :
    (e17 0 (point 5 1) PointReg.reset).r[(0 : RIdx)].toNat = 0 ∧ (e17 1 (point 5 1) PointReg.reset).r[(0 : RIdx)].toNat = 1 ∧
    (e17 1 (point 5 1) PointReg.reset).q[(0 : QIdx)].inf = false ∧
    (e17 1 (point 5 1) PointReg.reset).PointOk 0 :=
  ⟨by decide, by decide, by decide, fun _ => ⟨by decide, by decide⟩⟩

/-- PointCommandsStayOnTheCurve: a finite point on E17 is good, and so is INF. -/
theorem witness_on_curve :
    let s := e17 0 (point 5 1) PointReg.reset
    (s.q[(0 : QIdx)].x.toNat < s.p.toNat ∧ s.q[(0 : QIdx)].y.toNat < s.p.toNat ∧
      (s.q[(0 : QIdx)].y.toNat : Int) ^ 2 ≡ (s.q[(0 : QIdx)].x.toNat : Int) ^ 3 + s.a.toNat * s.q[(0 : QIdx)].x.toNat + s.b.toNat
        [ZMOD s.p.toNat]) ∧ s.q[(1 : QIdx)].inf = true :=
  ⟨⟨by decide, by decide, by decide⟩, by decide⟩

/-- PointCommandsIgnoreB: each of the three commands answers a next state, here E_MODULUS and a result. -/
theorem witness_ignores_b :
    exec (.ecdbl 1 0) State.reset = .next (State.reset.completedWith .modulus) ∧
    ∃ t, exec (.ecadd 2 0 1) (e17 0 (point 6 3) (point 3 1)) = .next t := ⟨rfl, _, rfl⟩

/-- AeskeyxReducesTheSecret: a finite point and INF. -/
theorem witness_aeskeyx : (e17 0 (point 5 1) PointReg.reset).q[(0 : QIdx)].inf = false ∧ State.reset.q[(0 : QIdx)].inf = true := by
  decide

/-- The statements that need the round keys, and AddrkXorsTheRoundKey at the two sides of its bound. -/
theorem witness_round_keys :
    (keyed 0).status.rkv = true ∧ (10 : BitVec 4).toNat < 11 ∧ 10 < (11 : BitVec 4).toNat := by decide

/-- CbcencWritesIvAndChain: the empty message and the longest one; CbcdecWritesMessage: the shortest and longest payload. -/
theorem witness_cbc_lengths :
    ((keyed 0).ilen.toNat ≤ (keyed 0).bufBytes ∧ 16 * ((keyed 0).ilen.toNat / 16 + 2) ≤ (keyed 0).bufBytes) ∧
    ((keyed 4079).ilen.toNat ≤ (keyed 4079).bufBytes ∧ 16 * ((keyed 4079).ilen.toNat / 16 + 2) ≤ (keyed 4079).bufBytes) ∧
    ((keyed 32).ilen.toNat % 16 = 0 ∧ 32 ≤ (keyed 32).ilen.toNat ∧ (keyed 32).ilen.toNat ≤ (keyed 32).bufBytes) ∧
    ((keyed 4096).ilen.toNat % 16 = 0 ∧ (keyed 4096).ilen.toNat ≤ (keyed 4096).bufBytes) := by decide

/-- The state CBCENC leaves for the empty message, and that state with OBUF copied to IBUF. -/
def encrypted : State := after (exec .cbcenc (cbc [] 0))

/-- `encrypted` with its payload copied to IBUF and ILEN = OLEN (R353). -/
def copied : State :=
  { encrypted with ilen := encrypted.olen, mem := Memory.writeBytes encrypted.mem 0x4000 (encrypted.readBytes 0x8000 32) }

/-- CbcRoundTrip: a state, the one CBCENC leaves, and the one the host makes of it. -/
theorem witness_round_trip :
    (cbc [] 0).status.rkv = true ∧ exec .cbcenc (cbc [] 0) = .next encrypted ∧ encrypted.status.errcode = .ok ∧
    copied.status.rkv = true ∧ copied.rk = (cbc [] 0).rk ∧ copied.params = (cbc [] 0).params ∧
    copied.ilen = encrypted.olen ∧ encrypted.olen.toNat = 32 ∧
    ∀ k < 32, copied.byteAt (0x4000 + k) = encrypted.byteAt (0x8000 + k) :=
  ⟨rfl, rfl, by decide +kernel, by decide +kernel, by decide +kernel, by decide +kernel, rfl, by decide +kernel,
    by decide +kernel⟩

/-- ResultFlagsHaveOneWriterAndNoReader: NOP is none of the writers; a failing ECCHK is one that fails. -/
theorem witness_result_flags :
    exec .nop State.reset = .next (State.reset.completedWith .ok) ∧ (∀ a, Instr.nop ≠ .ecchk a) ∧ Instr.nop ≠ .ecdisc ∧
    Instr.nop ≠ .cbcdec ∧ exec (.ecchk 0) State.reset = .next (State.reset.completedWith .modulus) ∧
    (State.reset.completedWith .modulus).status.errcode ≠ .ok :=
  ⟨rfl, nofun, nofun, nofun, rfl, by decide⟩

/-- InterruptFollowsCompletion: an accepted issue, and a reset while a command is pending. -/
theorem witness_interrupt :
    State.reset.status.busy = false ∧ (∃ t, step (State.reset.facingWrite 0x00C 0) = .next t) ∧
    ∃ t, step ((busy 0).facing (.host .reset)) = .next t := ⟨rfl, ⟨_, rfl⟩, ⟨_, rfl⟩⟩

/-- BadAccessesGetBusErrors: the offsets next to the mapped ranges are word-aligned and unmapped. -/
theorem witness_bad_offsets :
    ∀ off ∈ [0x0018, 0x00FC, 0x0160, 0x01FC, 0x0300, 0x03FC, 0x0404, 0x041C, 0x0460, 0x047C, 0x05E0, 0x0630, 0x06FC, 0x07B0,
      0x3FFC, 0x5000, 0x7FFC, 0x9000, 0xFFFC], off < 0x10000 ∧ off % 4 = 0 ∧ locate State.reset.bufBytes off = none := by
  decide

/-- The write statements: the first and last mapped offsets, BUSY = 0 and BUSY = 1, and the last word of the buffers. -/
theorem witness_mapped_offsets :
    State.reset.status.busy = false ∧ (busy 0).status.busy = true ∧ 4 * 1023 < State.reset.bufBytes ∧
    ∀ off ∈ [0x0000, 0x0014, 0x0100, 0x015C, 0x0200, 0x02FC, 0x0400, 0x0420, 0x05DC, 0x0600, 0x062C, 0x0700, 0x07AC, 0x4000,
      0x4FFC, 0x8000, 0x8FFC], off % 4 = 0 ∧ (locate State.reset.bufBytes off).isSome = true := by decide

/-- EveryStepKeepsConsistency, ParametersNeverChange: the state after reset is consistent and has a next step. -/
theorem witness_consistent : State.reset.Consistent ∧ ∃ t, step State.reset = .next t :=
  ⟨⟨by decide, nofun, by decide, by decide, nofun, by decide⟩, _, rfl⟩

end Sys2Proof.Tests
end

section
/-! SUPPORT. The parameters of the machine (spec/00_scope.md R5; assumption log 5): no host access, completion or reset
writes them. -/

namespace Sys2Proof.Machine

section
variable (s : State)

@[simp] theorem State.hardReset_params : s.hardReset.params = s.params := rfl

@[simp] theorem State.writeWord_params (w : Word) (loc : Location) : (s.writeWord w loc).params = s.params := by
  cases loc <;> rfl

/-- A write dropped by the busy rule sets BUSYERR alone (spec/20_memory.md R70). -/
@[simp] theorem State.hostWrite_params (w : Word) (loc : Location) : (s.hostWrite w loc).params = s.params := by
  rcases s.hostWrite_cases w loc with ⟨-, -, dropped⟩ | ⟨-, written⟩
  · rw [dropped]
  · rw [written, State.writeWord_params]

/-- An access that reaches no location changes the port's answer alone (R60, R61, R65). -/
@[simp] theorem State.hostAct_params (action : HostAction) : (s.hostAct action).params = s.params := by
  cases action with
  | read addr width => cases hr : s.route addr width <;> simp only [State.hostAct, hr]
  | write addr width w => cases hr : s.route addr width <;> simp only [State.hostAct, hr, State.hostWrite_params]
  | reset => exact s.hardReset_params

end

/-- A commit keeps the parameters if the command's writes do: an error writes STATUS alone
(spec/60_exceptions.md R303, R306). -/
theorem State.finish_keeps_params {s t : State} {result : Except ErrCode State}
    (hwrites : ∀ u, result = .ok u → u.params = s.params) (h : s.finish result = .next t) : t.params = s.params := by
  obtain ⟨code, -, rfl⟩ | ⟨u, hu, rfl⟩ := s.finish_cases t result h
  · exact s.complete_params code
  · exact (u.complete_params .ok).trans (hwrites u hu)

theorem exec_keeps_params {i : Instr} {s t : State} (h : exec i s = .next t) : t.params = s.params := by
  obtain ⟨result, hexec, hframe⟩ := exec_commits i s
  refine State.finish_keeps_params (fun u hu => ?_) (hexec ▸ h)
  obtain ⟨-, -, -, -, -, -, -, hparams, -⟩ := hframe u hu
  exact hparams

theorem coreStep_keeps_params {s t : State} (h : coreStep s = .next t) : t.params = s.params := by
  obtain ⟨-, idle⟩ | ⟨-, i, -, runs⟩ | ⟨-, _, -, illegal⟩ := coreStep_cases s
  · cases idle.symm.trans h
    rfl
  · exact exec_keeps_params (runs.symm.trans h)
  · cases illegal.symm.trans h
    exact s.complete_params .illegal

/-- Settles O60, by the cases of a step: the core's completion, with or without an event taken from the list, and the
host's action. -/
theorem parametersNeverChange : Obligations.ParametersNeverChange := by
  intro s t h
  obtain ⟨-, drained⟩ | ⟨later, -, completes⟩ | ⟨action, later, -, acts⟩ := step_cases s
  · exact coreStep_keeps_params (drained.symm.trans h)
  · exact coreStep_keeps_params (s := { s with turns := later }) (completes.symm.trans h)
  · cases acts.symm.trans h
    exact State.hostAct_params { s with turns := later } action

end Sys2Proof.Machine
end

section
/-! SUPPORT. The two ways of saying what a completion leaves in STATUS agree (spec/60_exceptions.md R306), and the checks
never answer the code 0 (R302). -/

namespace Sys2Proof.Machine

theorem ErrCode.ne_ok_eq_toBits (code : ErrCode) : (code != .ok) = (code.toBits != 0) := by cases code <;> rfl

theorem Status.complete_eq_completed (st : Status) (code : ErrCode) : st.complete code = st.completed code := by
  simp only [Status.complete, Status.completed, ErrCode.ne_ok_eq_toBits]

theorem State.complete_eq_completedWith (s : State) (code : ErrCode) : s.complete code = s.completedWith code := by
  simp only [State.complete, State.completedWith, Status.complete_eq_completed]

theorem State.fieldError_ne_ok (s : State) (operands : List Field) : s.fieldError operands ≠ some .ok := by
  obtain ⟨-, e⟩ | ⟨-, -, -, e⟩ | ⟨-, -, -, e⟩ := s.fieldError_cases operands <;> simp [e]

theorem State.keyError_ne_ok (s : State) : s.keyError ≠ some .ok := by
  cases hrkv : s.status.rkv with
  | true => simp [s.keyError_true hrkv]
  | false => simp [s.keyError_false hrkv]

theorem afterCheck_eq_ok {failed : Option ErrCode} {rest : Except ErrCode State} {u : State}
    (h : afterCheck failed rest = .ok u) : rest = .ok u := by
  cases failed with
  | none => exact h
  | some code => cases h

theorem afterCheck_ne_error_ok {failed : Option ErrCode} {rest : Except ErrCode State} (hfailed : failed ≠ some .ok)
    (hrest : rest ≠ .error .ok) : afterCheck failed rest ≠ .error .ok := by
  cases failed with
  | none => exact hrest
  | some code => simpa using hfailed

theorem afterCheck_map (failed : Option ErrCode) (rest : Except ErrCode State) (change : State → State) :
    afterCheck failed (rest.map change) = (afterCheck failed rest).map change := by
  cases failed <;> rfl

end Sys2Proof.Machine
end

section
/-! SUPPORT. What the successful commands write: one shape for each operation of the commands (spec/10_state.md R21, R44,
R45; spec/43_cbc.md R250, R251). -/

namespace Sys2Proof.Machine

/-- `CommandWrites s i u`: `u` is `s` with the writes that a success of the command `i` may make, before its completion.
A write of STATE, of an `R` or of a `Q` is bound to no command here. The flags, KEY, RK and OBUF are (R44, R45): the schedule
is the one of KEY, and an output fits OBUF. -/
inductive CommandWrites (s : State) : Instr → State → Prop where
  | nothing : CommandWrites s .nop s
  | point (i : Instr) (d : QIdx) (v : PointReg) : CommandWrites s i (s.writeQ d v)
  | field (i : Instr) (d : RIdx) (v : Field) : CommandWrites s i (s.writeR d v)
  | block (i : Instr) (v : Block) : CommandWrites s i (s.writeBlock v)
  | key (a : QIdx) (v : Block) : CommandWrites s (.aeskeyx a) (s.writeKey v)
  | schedule : CommandWrites s .keyexp (s.writeSchedule (keyExpansion s.key))
  | oncurve (a : QIdx) (flag : Bool) :
      CommandWrites s (.ecchk a) { s with status := { s.status with oncurve := flag } }
  | nonsing (flag : Bool) : CommandWrites s .ecdisc { s with status := { s.status with nonsing := flag } }
  | encrypted (out : List Byte) (fits : out.length ≤ s.bufBytes) : CommandWrites s .cbcenc (s.writeOutput out).takeDraw
  | decrypted (out : List Byte) (flag : Bool) (fits : out.length ≤ s.bufBytes) :
      CommandWrites s .cbcdec { s.writeOutput out with status := { s.status with padv := flag } }

variable {s u : State} {i : Instr}

theorem CommandWrites.of_ok (writes : CommandWrites s i u) {v : State} (h : (.ok u : Except ErrCode State) = .ok v) :
    CommandWrites s i v := by
  cases h
  exact writes

theorem CommandWrites.of_checked (writes : CommandWrites s i u) {failed : Option ErrCode} {v : State}
    (h : afterCheck failed (.ok u) = .ok v) : CommandWrites s i v :=
  writes.of_ok (afterCheck_eq_ok h)

/-- CBCENC's output fits OBUF when its length check passes (spec/43_cbc.md R244). -/
theorem cbcEnc_fits (s : State) (hlen : encLengthBad s.bufBytes s.ilen.toNat = false) :
    (cbcEnc s.rk (pad (s.readBytes ibufBase s.ilen.toNat)) s.nextDraw).length ≤ s.bufBytes := by
  have hok : ¬ (s.bufBytes < s.ilen.toNat ∨ s.bufBytes < 16 * (s.ilen.toNat / 16 + 2)) := by
    simp [← encLengthBad_iff, hlen]
  rw [cbcEnc_length, State.readBytes_length]
  omega

theorem unpad_length_le (d : List Byte) : (unpad d).1.length ≤ d.length := by
  obtain ⟨-, -, -, e⟩ | ⟨-, e⟩ := unpad_cases d <;> simp [e]

/-- CBCDEC's output is shorter than its payload, which fits IBUF when its length check passes (R245). -/
theorem cbcDec_fits (s : State) (hlen : decLengthBad s.bufBytes s.ilen.toNat = false) :
    (unpad (cbcDec s.rk (s.readBytes ibufBase s.ilen.toNat))).1.length ≤ s.bufBytes := by
  have hok : ¬ (s.ilen.toNat % 16 ≠ 0 ∨ s.ilen.toNat < 32 ∨ s.bufBytes < s.ilen.toNat) := by
    simp [← decLengthBad_iff, hlen]
  have hle := unpad_length_le (cbcDec s.rk (s.readBytes ibufBase s.ilen.toNat))
  rw [cbcDec_length, State.readBytes_length] at hle
  omega

/-- Every command ends in one commit, and what it writes on success has one of the shapes. -/
theorem exec_writes (i : Instr) (s : State) :
    ∃ result : Except ErrCode State, exec i s = s.finish result ∧ ∀ u, result = .ok u → CommandWrites s i u := by
  cases i with
  | nop => exact ⟨_, rfl, fun _ => CommandWrites.nothing.of_ok⟩
  | ecadd _ _ _ | ecdbl _ _ | ecmul _ _ _ _ => exact ⟨_, rfl, fun _ => (CommandWrites.point _ _ _).of_checked⟩
  | ecchk _ => exact ⟨_, rfl, fun _ => (CommandWrites.oncurve _ _).of_checked⟩
  | ecdisc => exact ⟨_, rfl, fun _ => (CommandWrites.nonsing _).of_checked⟩
  | modinv _ _ => exact ⟨_, rfl, fun _ => (CommandWrites.field _ _ _).of_checked⟩
  | modsqrt d a =>
    refine ⟨_, rfl, fun u hu => ?_⟩
    replace hu := afterCheck_eq_ok hu
    split at hu
    · cases hu
    · exact (CommandWrites.field _ _ _).of_ok hu
  | aeskeyx a =>
    refine ⟨_, rfl, fun u hu => ?_⟩
    split at hu
    · cases hu
    · exact (CommandWrites.key _ _).of_ok hu
  | keyexp => exact ⟨_, rfl, fun _ => CommandWrites.schedule.of_ok⟩
  | subbytes | invsubbytes | shiftrows | invshiftrows | mixcolumns | invmixcolumns =>
    exact ⟨_, rfl, fun _ => (CommandWrites.block _ _).of_ok⟩
  | aesenc | aesdec => exact ⟨_, rfl, fun _ => (CommandWrites.block _ _).of_checked⟩
  | addrk rnd =>
    refine ⟨_, rfl, fun u hu => ?_⟩
    split at hu
    · cases hu
    · exact (CommandWrites.block _ _).of_checked hu
  | cbcenc =>
    refine ⟨_, rfl, fun u hu => ?_⟩
    replace hu := afterCheck_eq_ok hu
    split at hu
    · cases hu
    · next hlen => exact (CommandWrites.encrypted _ (cbcEnc_fits s (by simpa using hlen))).of_ok hu
  | cbcdec =>
    refine ⟨_, rfl, fun u hu => ?_⟩
    replace hu := afterCheck_eq_ok hu
    split at hu
    · cases hu
    · next hlen => exact (CommandWrites.decrypted _ _ (cbcDec_fits s (by simpa using hlen))).of_ok hu

/-- Everything a command can do: it fails and STATUS's completion fields change alone, or its writes stand
(spec/60_exceptions.md R303, R306). -/
theorem exec_cases {t : State} (h : exec i s = .next t) :
    (∃ code, t = s.complete code) ∨ ∃ u, CommandWrites s i u ∧ t = u.complete .ok := by
  obtain ⟨result, hexec, hwrites⟩ := exec_writes i s
  obtain ⟨code, -, ht⟩ | ⟨u, hu, ht⟩ := s.finish_cases t result (hexec ▸ h)
  · exact .inl ⟨code, ht⟩
  · exact .inr ⟨u, hwrites u hu, ht⟩

end Sys2Proof.Machine
end

section
/-! SUPPORT. Consistency is kept by every operation on the state: a byte sequence written inside a buffer, a command's
writes, its completion, a host access and a reset. -/

namespace Sys2Proof.Machine

/-- Settles O58: after reset the memory is empty, and every flag and OLEN are 0. -/
theorem resetIsConsistent : Obligations.ResetIsConsistent where
  memoryCanonical := State.reset_mem_wf
  memoryInBuffers := nofun
  doneOrBusy := nofun
  errIsCode := rfl
  roundKeysValid := nofun
  outputFits := Nat.zero_le _

section
variable {s u : State} {i : Instr}

/-- A reset keeps the parameters, which the invariants of the empty memory and of OLEN = 0 do not depend on. -/
theorem State.hardReset_consistent (s : State) : s.hardReset.Consistent :=
  { resetIsConsistent with memoryInBuffers := nofun, outputFits := Nat.zero_le _ }

/-- Bytes written from `addr` on inside a buffer keep the memory canonical and inside the buffers. -/
theorem State.Consistent.writeBytes (h : s.Consistent) (addr : Nat) (bs : List Byte)
    (inside : (ibufBase ≤ addr ∧ addr + bs.length ≤ ibufBase + s.bufBytes) ∨
      (obufBase ≤ addr ∧ addr + bs.length ≤ obufBase + s.bufBytes)) : (s.writeBytes addr bs).Consistent :=
  { h with
    memoryCanonical := Memory.writeBytes_wf _ _ _ h.memoryCanonical
    memoryInBuffers := fun c hc => by
      change (ibufBase ≤ c.1 ∧ c.1 < ibufBase + s.bufBytes) ∨ (obufBase ≤ c.1 ∧ c.1 < obufBase + s.bufBytes)
      obtain hnew | hold := Memory.mem_writeBytes _ _ _ c hc
      · omega
      · exact h.memoryInBuffers c hold }

/-- An output that fits OBUF, with OLEN its length (spec/10_state.md R33). -/
theorem State.Consistent.writeOutput (h : s.Consistent) (out : List Byte) (fits : out.length ≤ s.bufBytes) :
    (s.writeOutput out).Consistent :=
  { h.writeBytes obufBase out (.inr ⟨le_rfl, by omega⟩) with
    outputFits := by
      rw [State.writeOutput_olen, BitVec.toNat_ofNat]
      exact (Nat.mod_le _ _).trans fits }

/-- A new KEY clears RKV, so the old schedule is no claim any more (R45). -/
theorem State.Consistent.writeKey (h : s.Consistent) (v : Block) : (s.writeKey v).Consistent :=
  { h with roundKeysValid := nofun }

theorem State.Consistent.complete (h : s.Consistent) (code : ErrCode) : (s.complete code).Consistent :=
  { h with doneOrBusy := nofun, errIsCode := code.ne_ok_eq_toBits }

theorem CommandWrites.consistent (writes : CommandWrites s i u) (h : s.Consistent) : u.Consistent := by
  cases writes with
  | nothing => exact h
  | point | field | block | oncurve | nonsing => exact { h with }
  | key _ v => exact h.writeKey v
  | schedule => exact { h with roundKeysValid := fun _ => rfl }
  | encrypted out fits => exact { h.writeOutput out fits with }
  | decrypted out _ fits => exact { h.writeOutput out fits with }

theorem exec_keeps_consistent {t : State} (h : s.Consistent) (hexec : exec i s = .next t) : t.Consistent := by
  obtain ⟨code, rfl⟩ | ⟨u, writes, rfl⟩ := exec_cases hexec
  · exact h.complete code
  · exact (writes.consistent h).complete .ok

theorem coreStep_keeps_consistent {t : State} (h : s.Consistent) (hcore : coreStep s = .next t) : t.Consistent := by
  obtain ⟨-, idle⟩ | ⟨-, i, -, runs⟩ | ⟨-, _, -, illegal⟩ := coreStep_cases s
  · cases idle.symm.trans hcore
    exact h
  · exact exec_keeps_consistent h (runs.symm.trans hcore)
  · cases illegal.symm.trans hcore
    exact h.complete .illegal

/-- An access that reaches a location has the location of a word-aligned offset (spec/20_memory.md R61, R62). -/
theorem State.locate_of_route_eq_ok {addr : Nat} {width : Width} {loc : Location} (h : s.route addr width = .ok loc) :
    ∃ off, off % 4 = 0 ∧ locate s.bufBytes off = some loc := by
  unfold State.route at h
  split at h
  · cases h
  · split at h
    · next hok =>
      cases hloc : locate s.bufBytes (addr - s.params.coreBase) with
      | none => simp [hloc] at h
      | some loc' => exact ⟨_, hok.2, by simpa [hloc] using h⟩
    · cases h

/-- The words of IBUF are located in IBUF (R62). -/
theorem locate_eq_ibuf {bufBytes off x : Nat} (h : locate bufBytes off = some (.ibuf x)) :
    x = off ∧ ibufBase ≤ off ∧ off < ibufBase + bufBytes := by
  unfold locate controlLocation curveLocation pointLocation cipherLocation at h
  simp only at h
  repeat' split at h
  all_goals cases h
  exact ⟨rfl, ‹_›⟩

/-- The four bytes of a word of IBUF lie in it: BUF_BYTES is a multiple of 16 (spec/00_scope.md R5). -/
theorem State.route_ibuf_fits {addr : Nat} {width : Width} {x : Nat} (h : s.route addr width = .ok (.ibuf x)) :
    ibufBase ≤ x ∧ x + 4 ≤ ibufBase + s.bufBytes := by
  obtain ⟨off, haligned, hloc⟩ := State.locate_of_route_eq_ok h
  obtain ⟨rfl, hlow, hhigh⟩ := locate_eq_ibuf hloc
  obtain ⟨-, -, hbuf⟩ := s.bufBytes_range
  simp only [ibufBase] at *
  omega

/-- A mapped write that takes effect keeps the state consistent; of a word of IBUF, if its four bytes lie in IBUF. -/
theorem State.Consistent.writeWord (h : s.Consistent) (w : Word) (loc : Location)
    (hibuf : ∀ x, loc = .ibuf x → ibufBase ≤ x ∧ x + 4 ≤ ibufBase + s.bufBytes) : (s.writeWord w loc).Consistent := by
  cases loc with
  | id | olen | iv _ | rk _ _ | obuf _ => exact h
  | ctrl | ilen | p _ | a _ | b _ | r _ _ | qinf _ | qx _ _ | qy _ _ | block _ => exact { h with }
  | status => exact { h with doneOrBusy := fun ⟨hd, hb⟩ => h.doneOrBusy ⟨(Bool.and_eq_true_iff.1 hd).1, hb⟩ }
  | cmd => exact { h with doneOrBusy := nofun }
  | key j => exact h.writeKey _
  | ibuf x => exact h.writeBytes x (bytesOf 4 w) (.inl (by simpa using hibuf x rfl))

theorem State.Consistent.hostWrite (h : s.Consistent) (w : Word) (loc : Location)
    (hibuf : ∀ x, loc = .ibuf x → ibufBase ≤ x ∧ x + 4 ≤ ibufBase + s.bufBytes) : (s.hostWrite w loc).Consistent := by
  obtain ⟨-, -, dropped⟩ | ⟨-, written⟩ := s.hostWrite_cases w loc
  · rw [dropped]
    exact { h with }
  · rw [written]
    exact h.writeWord w loc hibuf

theorem State.Consistent.hostAct (h : s.Consistent) (action : HostAction) : (s.hostAct action).Consistent := by
  cases action with
  | read addr width =>
    cases hr : s.route addr width with
    | error answer =>
      simp only [State.hostAct, hr]
      exact { h with }
    | ok loc =>
      simp only [State.hostAct, hr]
      exact { h with }
  | write addr width w =>
    cases hr : s.route addr width with
    | error answer =>
      simp only [State.hostAct, hr]
      exact { h with }
    | ok loc =>
      simp only [State.hostAct, hr]
      exact { h.hostWrite w loc fun x hx => State.route_ibuf_fits (hx ▸ hr) with }
  | reset => exact s.hardReset_consistent

end

/-- Settles O59, by the cases of a step: the core's completion, with or without an event taken from the list, and the
host's action. -/
theorem everyStepKeepsConsistency : Obligations.EveryStepKeepsConsistency := by
  intro s t hs h
  obtain ⟨-, drained⟩ | ⟨later, -, completes⟩ | ⟨action, later, -, acts⟩ := step_cases s
  · exact coreStep_keeps_consistent hs (drained.symm.trans h)
  · exact coreStep_keeps_consistent (s := { s with turns := later }) { hs with } (completes.symm.trans h)
  · cases acts.symm.trans h
    exact State.Consistent.hostAct (s := { s with turns := later }) { hs with } action

end Sys2Proof.Machine
end

section
/-! SUPPORT. The result flags ONCURVE, NONSING and PADV (spec/10_state.md R44): which command's writes hold each, and that no
command's result depends on one. -/

namespace Sys2Proof.Machine

section
variable {s u : State} {i : Instr}

theorem CommandWrites.oncurve_eq (writes : CommandWrites s i u) (hi : ∀ a, i ≠ .ecchk a) :
    u.status.oncurve = s.status.oncurve := by
  cases writes with
  | oncurve a _ => exact absurd rfl (hi a)
  | _ => rfl

theorem CommandWrites.nonsing_eq (writes : CommandWrites s i u) (hi : i ≠ .ecdisc) :
    u.status.nonsing = s.status.nonsing := by
  cases writes with
  | nonsing _ => exact absurd rfl hi
  | _ => rfl

theorem CommandWrites.padv_eq (writes : CommandWrites s i u) (hi : i ≠ .cbcdec) : u.status.padv = s.status.padv := by
  cases writes with
  | decrypted _ _ _ => exact absurd rfl hi
  | _ => rfl

end

/-- `s` with other values of the three result flags. -/
def State.withFlags (f g h : Bool) (s : State) : State :=
  { s with status := { s.status with oncurve := f, nonsing := g, padv := h } }

/-- `u` with other values of the result flags that the command `i` does not write. -/
def State.withOtherFlags (i : Instr) (f g h : Bool) (u : State) : State :=
  match i with
  | .ecchk _ => u.withFlags u.status.oncurve g h
  | .ecdisc => u.withFlags f u.status.nonsing h
  | .cbcdec => u.withFlags f g u.status.padv
  | _ => u.withFlags f g h

section
variable (s : State) (f g h : Bool)

@[simp] theorem State.withFlags_p : (s.withFlags f g h).p = s.p := rfl
@[simp] theorem State.withFlags_r : (s.withFlags f g h).r = s.r := rfl
@[simp] theorem State.withFlags_rk : (s.withFlags f g h).rk = s.rk := rfl
@[simp] theorem State.withFlags_ilen : (s.withFlags f g h).ilen = s.ilen := rfl
@[simp] theorem State.withFlags_bufBytes : (s.withFlags f g h).bufBytes = s.bufBytes := rfl
@[simp] theorem State.withFlags_readBytes (addr n : Nat) : (s.withFlags f g h).readBytes addr n = s.readBytes addr n := rfl
@[simp] theorem State.withFlags_nextDraw : (s.withFlags f g h).nextDraw = s.nextDraw := rfl
@[simp] theorem State.withFlags_fieldError (operands : List Field) :
    (s.withFlags f g h).fieldError operands = s.fieldError operands := rfl
@[simp] theorem State.withFlags_keyError : (s.withFlags f g h).keyError = s.keyError := rfl
@[simp] theorem State.withFlags_roundKey (rnd : BitVec 4) : (s.withFlags f g h).roundKey rnd = s.roundKey rnd := rfl
@[simp] theorem State.withFlags_writeOutput (out : List Byte) :
    (s.withFlags f g h).writeOutput out = (s.writeOutput out).withFlags f g h := rfl
@[simp] theorem State.withFlags_takeDraw : (s.withFlags f g h).takeDraw = s.takeDraw.withFlags f g h := rfl

end

/-- No command's result reads a result flag: with other values of the three flags it fails with the same code, or writes the
same, the flag of its own included. -/
theorem exec_withFlags (i : Instr) (s : State) (f g h : Bool) :
    ∃ result : Except ErrCode State, exec i s = s.finish result ∧ result ≠ .error .ok ∧
      exec i (s.withFlags f g h) = (s.withFlags f g h).finish (result.map (State.withOtherFlags i f g h)) := by
  cases i with
  | nop | keyexp | subbytes | invsubbytes | shiftrows | invshiftrows | mixcolumns | invmixcolumns =>
    exact ⟨.ok _, rfl, nofun, rfl⟩
  | ecadd _ _ _ | ecdbl _ _ | ecmul _ _ _ _ | ecchk _ | ecdisc | modinv _ _ =>
    exact ⟨afterCheck _ (.ok _), rfl, afterCheck_ne_error_ok (s.fieldError_ne_ok _) nofun, by rw [← afterCheck_map]; rfl⟩
  | aesenc | aesdec =>
    exact ⟨afterCheck _ (.ok _), rfl, afterCheck_ne_error_ok s.keyError_ne_ok nofun, by rw [← afterCheck_map]; rfl⟩
  | modsqrt d a =>
    refine ⟨_, rfl, afterCheck_ne_error_ok (s.fieldError_ne_ok _) ?_, ?_⟩
    · split <;> nofun
    · simp only [exec, execModsqrt, State.withFlags_p, State.withFlags_r, State.withFlags_fieldError, ← afterCheck_map]
      cases tsqrt s.r[a].toNat s.p.toNat <;> rfl
  | aeskeyx a =>
    refine ⟨_, rfl, ?_, ?_⟩
    · split <;> nofun
    · rw [apply_ite (Except.map _)]
      rfl
  | addrk rnd =>
    refine ⟨_, rfl, ?_, ?_⟩
    · cases s.roundKey rnd with
      | none => nofun
      | some k => exact afterCheck_ne_error_ok s.keyError_ne_ok nofun
    · simp only [exec, execAddrk, State.withFlags_roundKey, State.withFlags_keyError]
      cases s.roundKey rnd with
      | none => rfl
      | some k =>
        simp only [← afterCheck_map]
        rfl
  | cbcenc =>
    refine ⟨_, rfl, afterCheck_ne_error_ok s.keyError_ne_ok ?_, ?_⟩
    · split <;> nofun
    · rw [← afterCheck_map]
      by_cases hlen : encLengthBad s.bufBytes s.ilen.toNat = true
      · simp only [exec, execCbcenc, State.withFlags_keyError, State.withFlags_bufBytes, State.withFlags_ilen, hlen, if_true]
        rfl
      · simp only [exec, execCbcenc, State.withFlags_keyError, State.withFlags_bufBytes, State.withFlags_ilen,
          State.withFlags_rk, State.withFlags_readBytes, State.withFlags_nextDraw, State.withFlags_writeOutput,
          State.withFlags_takeDraw, hlen, Bool.false_eq_true, if_false]
        rfl
  | cbcdec =>
    refine ⟨_, rfl, afterCheck_ne_error_ok s.keyError_ne_ok ?_, ?_⟩
    · split <;> nofun
    · rw [← afterCheck_map]
      by_cases hlen : decLengthBad s.bufBytes s.ilen.toNat = true
      · simp only [exec, execCbcdec, State.withFlags_keyError, State.withFlags_bufBytes, State.withFlags_ilen, hlen, if_true]
        rfl
      · simp only [exec, execCbcdec, State.withFlags_keyError, State.withFlags_bufBytes, State.withFlags_ilen,
          State.withFlags_rk, State.withFlags_readBytes, State.withFlags_writeOutput, hlen, Bool.false_eq_true, if_false]
        rfl

theorem State.withOtherFlags_eq (i : Instr) (f g h : Bool) (u : State) :
    u.withOtherFlags i f g h = u.withFlags (if ∃ a, i = .ecchk a then u.status.oncurve else f)
      (if i = .ecdisc then u.status.nonsing else g) (if i = .cbcdec then u.status.padv else h) := by
  cases i <;> simp [State.withOtherFlags]

/-- R44's first half: a flag is written by its own command alone, and by a success of it alone. -/
theorem exec_flags_unwritten {i : Instr} {s t : State} (hexec : exec i s = .next t) :
    ((∀ a, i ≠ .ecchk a) ∨ t.status.errcode ≠ .ok → t.status.oncurve = s.status.oncurve) ∧
    (i ≠ .ecdisc ∨ t.status.errcode ≠ .ok → t.status.nonsing = s.status.nonsing) ∧
    (i ≠ .cbcdec ∨ t.status.errcode ≠ .ok → t.status.padv = s.status.padv) := by
  obtain ⟨code, rfl⟩ | ⟨u, writes, rfl⟩ := exec_cases hexec
  · exact ⟨fun _ => rfl, fun _ => rfl, fun _ => rfl⟩
  · have success : ¬ (u.complete .ok).status.errcode ≠ .ok := not_not.2 rfl
    exact ⟨fun hi => writes.oncurve_eq (hi.resolve_right success), fun hi => writes.nonsing_eq (hi.resolve_right success),
      fun hi => writes.padv_eq (hi.resolve_right success)⟩

/-- R44's second half: the next state with other values of the flags, but for the flag that a successful writer wrote. -/
theorem exec_flags_unread {i : Instr} {s t : State} (f g h : Bool) (hexec : exec i s = .next t) :
    exec i (s.withFlags f g h) = .next (t.withFlags
      (if (∃ a, i = .ecchk a) ∧ t.status.errcode = .ok then t.status.oncurve else f)
      (if i = .ecdisc ∧ t.status.errcode = .ok then t.status.nonsing else g)
      (if i = .cbcdec ∧ t.status.errcode = .ok then t.status.padv else h)) := by
  obtain ⟨result, hresult, hcode, hflags⟩ := exec_withFlags i s f g h
  rw [hflags]
  obtain ⟨code, rfl, rfl⟩ | ⟨u, rfl, rfl⟩ := s.finish_cases t result (hresult ▸ hexec)
  · have failed : code ≠ .ok := fun e => hcode (e ▸ rfl)
    simp only [State.complete_status, Status.complete_errcode, failed, and_false, if_false]
    rfl
  · simp only [State.complete_status, Status.complete_errcode, and_true, Except.map, State.withOtherFlags_eq]
    rfl

/-- Settles O46: what the commands write gives the first half, and what their results depend on the second. -/
theorem resultFlagsHaveOneWriterAndNoReader : Obligations.ResultFlagsHaveOneWriterAndNoReader :=
  ⟨fun _ _ _ => exec_flags_unwritten, fun _ _ _ f g h => exec_flags_unread f g h⟩

end Sys2Proof.Machine
end

section
/-! SUPPORT. The interrupt wire (spec/10_state.md R37) and the host's writes to CMD, CTRL and STATUS (R38, R39;
spec/60_exceptions.md R305). -/

namespace Sys2Proof.Machine

section
variable (s : State)

theorem step_facing_host (action : HostAction) : step (s.facing (.host action)) = .next (s.hostAct action) := rfl

/-- A 32-bit write that comes next, at a mapped, word-aligned offset of the window (spec/20_memory.md R61, R69, R70). -/
theorem step_facingWrite (off : Nat) (w : Word) (loc : Location) (haligned : off % 4 = 0) (hwindow : off < 0x10000)
    (hloc : locate s.bufBytes off = some loc) :
    step (s.facingWrite off w) = .next { s.hostWrite w loc with response := .written } :=
  (step_facing_host s _).trans (congrArg _ (s.hostAct_write off w loc haligned hwindow hloc))

theorem State.hostWrite_of_writableWhileBusy (w : Word) (loc : Location) (hloc : loc.writableWhileBusy = true) :
    s.hostWrite w loc = s.writeWord w loc := by
  simp [State.hostWrite, hloc]

theorem State.hostWrite_of_idle (w : Word) (loc : Location) (hidle : s.status.busy = false) :
    s.hostWrite w loc = s.writeWord w loc := by
  simp [State.hostWrite, hidle]

@[simp] theorem State.irq_complete (code : ErrCode) : (s.complete code).irq = s.ctrl.ie := Bool.and_true _

@[simp] theorem State.irq_issue (w : Word) : (s.issue w).irq = false := Bool.and_false _

@[simp] theorem State.irq_hardReset : s.hardReset.irq = false := rfl

end

/-- After any completion IRQ is IE: DONE is 1 and no command writes CTRL. -/
theorem exec_irq {i : Instr} {s t : State} (h : exec i s = .next t) : t.irq = s.ctrl.ie := by
  obtain ⟨result, hexec, hframe⟩ := exec_commits i s
  obtain ⟨code, -, rfl⟩ | ⟨u, hu, rfl⟩ := s.finish_cases t result (hexec ▸ h)
  · exact s.irq_complete code
  · obtain ⟨-, -, -, -, -, hctrl, -⟩ := hframe u hu
    rw [State.irq_complete, hctrl]

/-- Settles O48. -/
theorem interruptFollowsCompletion : Obligations.InterruptFollowsCompletion := by
  refine ⟨fun _ _ _ => exec_irq, fun s t w hidle h => ?_, rfl, fun s t h => ?_⟩
  · rw [step_facingWrite s 0x00C w .cmd rfl (by decide) rfl, s.hostWrite_of_idle w .cmd hidle] at h
    cases h
    exact s.irq_issue w
  · rw [step_facing_host] at h
    cases h
    exact s.irq_hardReset

theorem getLsbD_eq_decide {n : Nat} (v : BitVec n) (i : Nat) : v.getLsbD i = decide (v.toNat / 2 ^ i % 2 = 1) := by
  rw [← BitVec.testBit_toNat, Nat.testBit_eq_decide_div_mod_eq]

theorem Ctrl.ofWord_eq (w : Word) : Ctrl.ofWord w = { ie := decide (w.toNat % 2 = 1) } := by
  rw [Ctrl.ofWord, getLsbD_eq_decide, pow_zero, Nat.div_one]

theorem Status.writeOneToClear_eq (st : Status) (w : Word) :
    st.writeOneToClear w = { st with
      done := if w.toNat / 2 % 2 = 1 then false else st.done
      busyerr := if w.toNat / 2 ^ 16 % 2 = 1 then false else st.busyerr } := by
  have clears (i : Nat) (b : Bool) : (b && !w.getLsbD i) = if w.toNat / 2 ^ i % 2 = 1 then false else b := by
    rw [getLsbD_eq_decide]
    split <;> simp [*]
  simp only [Status.writeOneToClear, clears, pow_one]

/-- Settles O55. -/
theorem controlWritesTakeEffectAlways : Obligations.ControlWritesTakeEffectAlways := by
  intro s w
  constructor
  · rw [step_facingWrite s 0x004 w .ctrl rfl (by decide) rfl, s.hostWrite_of_writableWhileBusy w .ctrl rfl,
      State.writeWord, Ctrl.ofWord_eq]
  · rw [step_facingWrite s 0x008 w .status rfl (by decide) rfl, s.hostWrite_of_writableWhileBusy w .status rfl,
      State.writeWord, Status.writeOneToClear_eq]

end Sys2Proof.Machine
end

section
/-! SUPPORT. The word of STATUS, bit by bit (spec/10_state.md R39, R48; spec/60_exceptions.md R300). -/

namespace Sys2Proof.Machine

theorem getLsbD_flagBit {i : Nat} (hi : i < 32) (on : Bool) (j : Nat) :
    (flagBit i on).getLsbD j = (on && decide (j = i)) := by
  cases on with
  | false => simp [flagBit]
  | true =>
    rw [flagBit, if_pos rfl, BitVec.getLsbD_shiftLeft, BitVec.getLsbD_one, Bool.eq_iff_iff]
    simp
    omega

theorem ErrCode.getLsbD_toBits_of_ge (code : ErrCode) {j : Nat} (hj : 4 ≤ j) : code.toBits.getLsbD j = false :=
  BitVec.getLsbD_of_ge _ _ hj

theorem ErrCode.getLsbD_toBits_shifted (code : ErrCode) (j : Nat) :
    (code.toBits.setWidth 32 <<< 4).getLsbD j = (decide (4 ≤ j) && code.toBits.getLsbD (j - 4)) := by
  rw [BitVec.getLsbD_shiftLeft, BitVec.getLsbD_setWidth, Bool.eq_iff_iff]
  by_cases hj : j < 8
  · have h32 : j < 32 := by omega
    have h36 : j - 4 < 32 := by omega
    simp [h32, h36]
  · simp [code.getLsbD_toBits_of_ge (show 4 ≤ j - 4 by omega)]

/-- Every bit of STATUS: its flags, ERRCODE in bits 7:4, and 0 elsewhere. -/
theorem Status.getLsbD_toWord (st : Status) (j : Nat) :
    st.toWord.getLsbD j =
      ((st.busy && decide (j = 0)) || (st.done && decide (j = 1)) || (st.err && decide (j = 2)) ||
        (decide (4 ≤ j) && st.errcode.toBits.getLsbD (j - 4)) || (st.oncurve && decide (j = 8)) ||
        (st.nonsing && decide (j = 9)) || (st.padv && decide (j = 10)) || (st.rkv && decide (j = 11)) ||
        (st.busyerr && decide (j = 16))) := by
  simp only [Status.toWord, BitVec.getLsbD_or, ErrCode.getLsbD_toBits_shifted, getLsbD_flagBit, Nat.reduceLT]

/-- The bits above ERRCODE. -/
theorem Status.getLsbD_toWord_of_ge (st : Status) {j : Nat} (hj : 8 ≤ j) :
    st.toWord.getLsbD j =
      ((st.oncurve && decide (j = 8)) || (st.nonsing && decide (j = 9)) || (st.padv && decide (j = 10)) ||
        (st.rkv && decide (j = 11)) || (st.busyerr && decide (j = 16))) := by
  have h0 : j ≠ 0 := by omega
  have h1 : j ≠ 1 := by omega
  have h2 : j ≠ 2 := by omega
  simp [Status.getLsbD_toWord, st.errcode.getLsbD_toBits_of_ge (show 4 ≤ j - 4 by omega), h0, h1, h2]

/-- The `n` bits of a word from bit `i` on, as a number. -/
theorem toNat_extractLsb'_eq (w : Word) (i n : Nat) : (w.extractLsb' i n).toNat = w.toNat / 2 ^ i % 2 ^ n := by
  rw [BitVec.extractLsb'_toNat, Nat.shiftRight_eq_div_pow]

theorem Status.toWord_errcode (st : Status) : st.toWord.extractLsb' 4 4 = st.errcode.toBits := by
  apply BitVec.eq_of_getLsbD_eq
  intro j hj
  have below : ∀ k, 8 ≤ k → 4 + j ≠ k := by omega
  have above : ∀ k, k < 4 → 4 + j ≠ k := by omega
  rw [BitVec.getLsbD_extractLsb', Status.getLsbD_toWord]
  simp [hj, below, above]

theorem Status.toWord_reserved_low (st : Status) : st.toWord.extractLsb' 12 4 = 0 := by
  apply BitVec.eq_of_getLsbD_eq
  intro j hj
  have below : 12 + j ≠ 16 := by omega
  have above : ∀ k, k < 12 → 12 + j ≠ k := by omega
  rw [BitVec.getLsbD_extractLsb', st.getLsbD_toWord_of_ge (by omega)]
  simp [below, above]

theorem Status.toWord_reserved_high (st : Status) : st.toWord.toNat / 2 ^ 17 = 0 := by
  apply Nat.eq_of_testBit_eq
  intro j
  rw [Nat.testBit_div_two_pow, BitVec.testBit_toNat, st.getLsbD_toWord_of_ge (by omega)]
  simp

/-- Settles O47: the fields of several bits have their own lemmas, the single bits are read off `Status.getLsbD_toWord`. -/
theorem statusWordLayout : Obligations.StatusWordLayout := by
  intro st
  have errcode : st.toWord.toNat / 16 % 16 = st.errcode.toBits.toNat :=
    (toNat_extractLsb'_eq st.toWord 4 4).symm.trans (congrArg BitVec.toNat st.toWord_errcode)
  have reserved : st.toWord.toNat / 2 ^ 12 % 16 = 0 :=
    (toNat_extractLsb'_eq st.toWord 12 4).symm.trans (congrArg BitVec.toNat st.toWord_reserved_low)
  refine ⟨?_, ?_, ?_, ?_, errcode.trans ?_, ?_, ?_, ?_, ?_, reserved, ?_, st.toWord_reserved_high⟩
  case refine_5 => cases st.errcode <;> rfl
  all_goals
    rw [Status.getLsbD_toWord]
    simp

end Sys2Proof.Machine
end

section
/-! SUPPORT. The commands that need the round keys (spec/10_state.md R45), and the point commands and B (R24). -/

namespace Sys2Proof.Machine

theorem State.finish_nokey (s : State) (hrkv : s.status.rkv = false) (rest : Except ErrCode State) :
    s.finish (afterCheck s.keyError rest) = .next (s.completedWith .nokey) := by
  rw [s.keyError_false hrkv, afterCheck_some, State.finish_error, State.complete_eq_completedWith]

theorem State.roundKey_of_legal (s : State) {rnd : BitVec 4} (hlegal : WellFormed (.addrk rnd) = true) :
    ∃ k, s.roundKey rnd = some k := by
  have hrnd : rnd.toNat < 11 := by
    simp only [WellFormed, roundLegal, decide_eq_true_eq] at hlegal
    omega
  exact ⟨_, by rw [State.roundKey_eq, dif_pos hrnd]⟩

/-- Settles O13: each of the five commands checks RKV first, ADDRK once its round index is legal. -/
theorem noKeyErrorWithoutRoundKeys : Obligations.NoKeyErrorWithoutRoundKeys := by
  intro i s hwf hneeds hrkv
  cases i with
  | aesenc | aesdec | cbcenc | cbcdec => exact s.finish_nokey hrkv _
  | addrk rnd =>
    obtain ⟨k, hk⟩ := s.roundKey_of_legal hwf
    simp only [exec, execAddrk, hk]
    exact s.finish_nokey hrkv _
  | _ => cases hneeds

/-- `s` with another value of B. -/
def State.withB (v : Field) (s : State) : State := { s with b := v }

/-- A command that checks its operands and then writes, none of it reading B, answers the same next state but for B. -/
theorem State.finish_withB {s t : State} (v : Field) {failed : Option ErrCode} {u : State}
    (h : s.finish (afterCheck failed (.ok u)) = .next t) :
    (s.withB v).finish (afterCheck failed (.ok (u.withB v))) = .next (t.withB v) := by
  cases failed with
  | some code =>
    cases h
    rfl
  | none =>
    cases h
    rfl

/-- Settles O30: the checks and the sums of the three commands read P, A, R and Q alone. -/
theorem pointCommandsIgnoreB : Obligations.PointCommandsIgnoreB := by
  rintro s t i v (⟨d, a, b, rfl⟩ | ⟨d, a, rfl⟩ | ⟨d, a, b, neg, rfl⟩) h
  all_goals exact State.finish_withB v h

end Sys2Proof.Machine
end

section
/-! SUPPORT. The next access of the host port (spec/20_memory.md R60 to R70): a mapped offset lies in the window and reaches
its location, and what a read or a write there leaves. -/

namespace Sys2Proof.Machine

/-- The offsets that R62 lists reach a location. -/
theorem exists_locate_of_listed {bufBytes off : Nat} (haligned : off % 4 = 0)
    (hlisted : off ≤ 0x0017 ∨ (0x0100 ≤ off ∧ off ≤ 0x015F) ∨ (0x0200 ≤ off ∧ off ≤ 0x02FF) ∨
      (0x0400 ≤ off ∧ off ≤ 0x05FF ∧ (off % 0x80 < 4 ∨ (0x20 ≤ off % 0x80 ∧ off % 0x80 < 0x60))) ∨
      (0x0600 ≤ off ∧ off ≤ 0x062F) ∨ (0x0700 ≤ off ∧ off ≤ 0x07AF) ∨
      (0x4000 ≤ off ∧ off < 0x4000 + bufBytes) ∨ (0x8000 ≤ off ∧ off < 0x8000 + bufBytes)) :
    ∃ loc, locate bufBytes off = some loc :=
  Option.ne_none_iff_exists'.1 fun hnone => (locate_eq_none_iff bufBytes off haligned).1 hnone hlisted

section
variable {s : State} {off : Nat} {loc : Location}

/-- BUF_BYTES is at most 16384, so OBUF ends inside the window (spec/00_scope.md R5; R60, R62). -/
theorem State.locate_inWindow (haligned : off % 4 = 0) (hloc : locate s.bufBytes off = some loc) : off < 0x10000 := by
  obtain ⟨-, hbuf, -⟩ := s.bufBytes_range
  by_contra houtside
  have hnone : locate s.bufBytes off = none := (locate_eq_none_iff _ _ haligned).2 (by omega)
  cases hnone.symm.trans hloc

theorem step_facingRead (haligned : off % 4 = 0) (hloc : locate s.bufBytes off = some loc) :
    step (s.facingRead off) = .next { s with response := .data (s.readWord loc) } :=
  (step_facing_host s _).trans (congrArg _ (s.hostAct_read off loc haligned (State.locate_inWindow haligned hloc) hloc))

/-- While BUSY = 0 a mapped write takes effect (R67, R68). -/
theorem step_facingWrite_idle (w : Word) (hidle : s.status.busy = false) (haligned : off % 4 = 0)
    (hloc : locate s.bufBytes off = some loc) :
    step (s.facingWrite off w) = .next { s.writeWord w loc with response := .written } := by
  rw [step_facingWrite s off w loc haligned (State.locate_inWindow haligned hloc) hloc, s.hostWrite_of_idle w loc hidle]

theorem State.hostWrite_of_busy (w : Word) (hbusy : s.status.busy = true) (hdrops : loc.writableWhileBusy = false) :
    s.hostWrite w loc = { s with status := { s.status with busyerr := true } } := by
  simp [State.hostWrite, hbusy, hdrops, Status.dropWrite]

/-- While BUSY = 1 a mapped write anywhere but at CTRL and STATUS is dropped and sets BUSYERR (R70). -/
theorem step_facingWrite_busy (w : Word) (hbusy : s.status.busy = true) (haligned : off % 4 = 0)
    (hloc : locate s.bufBytes off = some loc) (hoff : ¬ (off = 0x0004 ∨ off = 0x0008)) :
    step (s.facingWrite off w) =
      .next { s with status := { s.status with busyerr := true }, response := .written } := by
  have hdrops : loc.writableWhileBusy = false :=
    Bool.eq_false_iff.2 (mt (locate_writableWhileBusy _ _ _ haligned hloc).1 hoff)
  rw [step_facingWrite s off w loc haligned (State.locate_inWindow haligned hloc) hloc,
    State.hostWrite_of_busy w hbusy hdrops]

end

end Sys2Proof.Machine
end

section
/-! SUPPORT. Which host accesses change nothing, or BUSYERR alone: reads, refused accesses, writes to read-only places and
writes while BUSY = 1 (spec/20_memory.md R61, R65, R66, R67, R70). -/

namespace Sys2Proof.Machine

/-- Settles O49: routed or refused, a read changes the port's answer alone. -/
theorem readsHaveNoSideEffects : Obligations.ReadsHaveNoSideEffects := by
  intro s addr width
  rw [step_facing_host]
  cases hroute : s.route addr width with
  | error answer => exact ⟨answer, by simp only [State.hostAct, hroute]⟩
  | ok loc => exact ⟨.data (s.readWord loc), by simp only [State.hostAct, hroute]⟩

/-- Settles O51: no such access is routed to a location. -/
theorem badAccessesGetBusErrors : Obligations.BadAccessesGetBusErrors := by
  intro s off width w hwindow hbad
  have hunmapped : width ≠ .bits32 ∨ off % 4 ≠ 0 ∨ locate s.bufBytes off = none := by
    obtain hwidth | hmisaligned | hunlisted := hbad
    · exact .inl hwidth
    · exact .inr (.inl hmisaligned)
    · by_cases haligned : off % 4 = 0
      · exact .inr (.inr ((locate_eq_none_iff _ _ haligned).2 hunlisted))
      · exact .inr (.inl haligned)
  have hroute := s.route_busError off width hwindow hunmapped
  simp only [step_facing_host, State.hostAct, hroute, and_self]

/-- Settles O54. -/
theorem readOnlyWritesAreIgnored : Obligations.ReadOnlyWritesAreIgnored := by
  intro s off w hidle haligned hoff
  obtain ⟨-, hbuf, -⟩ := s.bufBytes_range
  obtain ⟨loc, hloc⟩ : ∃ loc, locate s.bufBytes off = some loc := exists_locate_of_listed haligned (by omega)
  have hreadOnly : loc.readOnly = true := (locate_readOnly _ _ _ hbuf haligned hloc).2 hoff
  rw [step_facingWrite_idle w hidle haligned hloc, s.writeWord_readOnly w loc hreadOnly]

/-- Settles O56: the offsets are listed ones, and none is that of CTRL or STATUS. -/
theorem busyWritesAreDropped : Obligations.BusyWritesAreDropped := by
  intro s off w hbusy haligned hoff
  simp only [List.mem_cons, List.not_mem_nil, or_false] at hoff
  obtain ⟨loc, hloc⟩ : ∃ loc, locate s.bufBytes off = some loc := exists_locate_of_listed haligned (by omega)
  exact step_facingWrite_busy w hbusy haligned hloc (by omega)

end Sys2Proof.Machine
end

section
/-! SUPPORT. The words of the registers at the port: which bits a read answers, and which a write replaces
(spec/20_memory.md R62, R63, R66, R68, R71). -/

namespace Sys2Proof.Machine

theorem getWord_toNat {n : Nat} (v : BitVec n) (j : Nat) :
    (getWord v j).toNat = v.toNat / 2 ^ (32 * j) % 2 ^ 32 := by
  rw [getWord, BitVec.extractLsb'_toNat, Nat.shiftRight_eq_div_pow]

theorem flagBit_zero_toNat (on : Bool) : (flagBit 0 on).toNat = on.toNat := by cases on <;> rfl

theorem getLsbD_zero_eq_decide {n : Nat} (v : BitVec n) : v.getLsbD 0 = decide (v.toNat % 2 = 1) := by
  rw [getLsbD_eq_decide, pow_zero, Nat.div_one]

theorem replacesWord_setWord {n : Nat} (v : BitVec n) {j : Nat} (w : Word) (hj : 32 * (j + 1) ≤ n) :
    ReplacesWord v (setWord v j w) j w := by
  intro k
  rw [← getWord_toNat, getWord_setWord v j k w hj, ← getWord_toNat]
  exact apply_ite BitVec.toNat _ _ _

theorem replacesWord_field (v : Field) {j : Nat} (hj : j < 8) (w : Word) : ReplacesWord v (setWord v j w) j w :=
  replacesWord_setWord v w (by omega)

theorem replacesWord_block (v : Block) {j : Nat} (hj : j < 4) (w : Word) : ReplacesWord v (setWord v j w) j w :=
  replacesWord_setWord v w (by omega)

/-- A read that comes next at the offset `off` answers `value` and changes nothing else. -/
def State.Reads (s : State) (off value : Nat) : Prop :=
  ∃ w : Word, w.toNat = value ∧ step (s.facingRead off) = .next { s with response := .data w }

section
variable {s : State} {off : Nat} {loc : Location}

theorem State.reads_of_locate {value : Nat} (haligned : off % 4 = 0) (hloc : locate s.bufBytes off = some loc)
    (hvalue : (s.readWord loc).toNat = value) : s.Reads off value :=
  ⟨s.readWord loc, hvalue, step_facingRead haligned hloc⟩

/-- A location that holds word `j` of the register value `v` answers that word (R63). -/
theorem State.reads_word {n : Nat} {v : BitVec n} {j : Nat} (haligned : off % 4 = 0)
    (hloc : locate s.bufBytes off = some loc) (hword : s.readWord loc = getWord v j) :
    s.Reads off (v.toNat / 2 ^ (32 * j) % 2 ^ 32) :=
  State.reads_of_locate haligned hloc (hword ▸ getWord_toNat v j)

end

/-- Settles O50, row by row of the address map. -/
theorem registerReadsFollowTheMap : Obligations.RegisterReadsFollowTheMap := by
  intro s
  refine ⟨?id, ?ctrl, ?status, ?cmd, ?ilen, ?olen, ?curve, ?r, ?q, ?cipher, ?rk⟩
  case id => exact State.reads_of_locate (loc := .id) rfl rfl rfl
  case ctrl => exact State.reads_of_locate (loc := .ctrl) rfl rfl (flagBit_zero_toNat _)
  case status => exact State.reads_of_locate (loc := .status) rfl rfl rfl
  case cmd => exact State.reads_of_locate (loc := .cmd) rfl rfl rfl
  case ilen => exact State.reads_of_locate (loc := .ilen) rfl rfl rfl
  case olen => exact State.reads_of_locate (loc := .olen) rfl rfl rfl
  case curve =>
    exact fun j hj => ⟨State.reads_word (by omega) (locate_p _ j hj) rfl,
      State.reads_word (by omega) (locate_a _ j hj) rfl, State.reads_word (by omega) (locate_b _ j hj) rfl⟩
  case r => exact fun i j hj => State.reads_word (by omega) (locate_r _ i j hj) rfl
  case q =>
    exact fun i => ⟨State.reads_of_locate (by omega) (locate_qinf _ i) (flagBit_zero_toNat _), fun j hj =>
      ⟨State.reads_word (by omega) (locate_qx _ i j hj) rfl, State.reads_word (by omega) (locate_qy _ i j hj) rfl⟩⟩
  case cipher =>
    exact fun j hj => ⟨State.reads_word (by omega) (locate_key _ j hj) rfl,
      State.reads_word (by omega) (locate_block _ j hj) rfl, State.reads_word (by omega) (locate_iv _ j hj) rfl⟩
  case rk => exact fun i j hj => State.reads_word (by omega) (locate_rk _ i j hj) rfl

/-- Settles O52, row by row of the address map. -/
theorem registerWritesReplaceOneWord : Obligations.RegisterWritesReplaceOneWord := by
  intro s w hidle
  refine ⟨fun j hj => ⟨?p, ?a, ?b, fun i => ?r, fun i => ?xy⟩, fun i => ?inf, fun j hj => ⟨?key, ?block⟩, ?ilen⟩
  case p => exact ⟨_, replacesWord_field _ hj w, step_facingWrite_idle w hidle (by omega) (locate_p _ j hj)⟩
  case a => exact ⟨_, replacesWord_field _ hj w, step_facingWrite_idle w hidle (by omega) (locate_a _ j hj)⟩
  case b => exact ⟨_, replacesWord_field _ hj w, step_facingWrite_idle w hidle (by omega) (locate_b _ j hj)⟩
  case r => exact ⟨_, replacesWord_field _ hj w, step_facingWrite_idle w hidle (by omega) (locate_r _ i j hj)⟩
  case xy =>
    exact ⟨_, replacesWord_field _ hj w, _, replacesWord_field _ hj w,
      step_facingWrite_idle w hidle (by omega) (locate_qx _ i j hj),
      step_facingWrite_idle w hidle (by omega) (locate_qy _ i j hj)⟩
  case inf =>
    rw [← getLsbD_zero_eq_decide]
    exact step_facingWrite_idle w hidle (by omega) (locate_qinf _ i)
  case key => exact ⟨_, replacesWord_block _ hj w, step_facingWrite_idle w hidle (by omega) (locate_key _ j hj)⟩
  case block => exact ⟨_, replacesWord_block _ hj w, step_facingWrite_idle w hidle (by omega) (locate_block _ j hj)⟩
  case ilen => exact step_facingWrite_idle (loc := .ilen) w hidle rfl rfl

end Sys2Proof.Machine
end

section
/-! SUPPORT. The words of IBUF and OBUF at the port (spec/20_memory.md R62, R64, R69). -/

namespace Sys2Proof.Machine

theorem State.byteAt_bufferWord (s : State) (off : Nat) {k : Nat} (hk : k < 4) :
    Machine.byteAt (s.bufferWord off) k = s.byteAt (off + k) := by
  rw [State.bufferWord, byteAt_ofNat_packBytes 32 _ (by rw [State.readBytes_length]), s.readBytes_getD off 4 k hk]

/-- Byte `k` of a word written at `off` lands at `off + k`, and no other byte changes. -/
theorem State.byteAt_writeBytes_bytesOf (s : State) (off : Nat) (w : Word) (x : Nat) :
    (s.writeBytes off (bytesOf 4 w)).byteAt x =
      if off ≤ x ∧ x < off + 4 then Machine.byteAt w (x - off) else s.byteAt x := by
  rw [State.byteAt_writeBytes, bytesOf_length]
  split
  case isTrue hinside => exact bytesOf_getD 4 w (x - off) (by omega)
  case isFalse => rfl

/-- A location that holds the buffer word at `off` answers its four bytes. -/
theorem step_facingRead_buffer {s : State} {off : Nat} {loc : Location} (haligned : off % 4 = 0)
    (hloc : locate s.bufBytes off = some loc) (hword : s.readWord loc = s.bufferWord off) :
    ∃ v : Word, step (s.facingRead off) = .next { s with response := .data v } ∧
      ∀ k < 4, byteAt v k = s.byteAt (off + k) :=
  ⟨s.bufferWord off, hword ▸ step_facingRead haligned hloc, fun _ hk => s.byteAt_bufferWord off hk⟩

/-- Settles O53: the write to IBUF, then the read of either buffer. -/
theorem bufferWordsAreFourBytes : Obligations.BufferWordsAreFourBytes := by
  intro s m w hm
  obtain ⟨-, hbuf, -⟩ := s.bufBytes_range
  have hibuf : locate s.bufBytes (0x4000 + 4 * m) = some (.ibuf (0x4000 + 4 * m)) :=
    locate_ibuf _ _ (by omega) (by omega)
  have hobuf : locate s.bufBytes (0x8000 + 4 * m) = some (.obuf (0x8000 + 4 * m)) :=
    locate_obuf _ _ hbuf (by omega) (by omega)
  refine ⟨fun hidle => ⟨_, step_facingWrite_idle w hidle (by omega) hibuf, ?_⟩, ?_⟩
  · exact s.byteAt_writeBytes_bytesOf (0x4000 + 4 * m) w
  · intro base hbase
    simp only [List.mem_cons, List.not_mem_nil, or_false] at hbase
    obtain rfl | rfl := hbase
    · exact step_facingRead_buffer (by omega) hibuf rfl
    · exact step_facingRead_buffer (by omega) hobuf rfl

end Sys2Proof.Machine
end

section
/-! SUPPORT. The command word by its fields, and which words a row of the opcode map takes (spec/30_encoding.md R90 to
R97). -/

namespace Sys2Proof

/-- Bits 23:21, reserved (R90). -/
def reservedLow (w : Word) : BitVec 3 := w.extractLsb' 21 3

/-- Bits 31:28, reserved (R90). -/
def reservedHigh (w : Word) : BitVec 4 := w.extractLsb' 28 4

/-- NEG as a field of one bit (R90). -/
def negBit (w : Word) : BitVec 1 := w.extractLsb' 20 1

/-- The largest value of a field whose mask bits are `mask`, the free bits being its lowest ones (R91). -/
def fieldMax {n : Nat} (mask : BitVec n) : Nat := (~~~mask).toNat

section
variable (w : Word)

theorem opcField_toNat : (opcField w).toNat = w.toNat % 256 := by
  rw [opcField, Machine.toNat_extractLsb'_eq, pow_zero, Nat.div_one]
  rfl

theorem fdField_toNat : (fdField w).toNat = w.toNat / 2 ^ 8 % 16 := Machine.toNat_extractLsb'_eq w 8 4

theorem faField_toNat : (faField w).toNat = w.toNat / 2 ^ 12 % 16 := Machine.toNat_extractLsb'_eq w 12 4

theorem fbField_toNat : (fbField w).toNat = w.toNat / 2 ^ 16 % 16 := Machine.toNat_extractLsb'_eq w 16 4

theorem negBit_toNat : (negBit w).toNat = w.toNat / 2 ^ 20 % 2 := Machine.toNat_extractLsb'_eq w 20 1

theorem reservedLow_toNat : (reservedLow w).toNat = w.toNat / 2 ^ 21 % 8 := Machine.toNat_extractLsb'_eq w 21 3

theorem rndField_toNat : (rndField w).toNat = w.toNat / 2 ^ 24 % 16 := Machine.toNat_extractLsb'_eq w 24 4

theorem reservedHigh_toNat : (reservedHigh w).toNat = w.toNat / 2 ^ 28 := by
  have hw := w.isLt
  rw [reservedHigh, Machine.toNat_extractLsb'_eq]
  omega

end

/-- The eight fields are the whole word (R90). -/
theorem eq_iff_fields_eq (u v : Word) :
    u = v ↔ opcField u = opcField v ∧ fdField u = fdField v ∧ faField u = faField v ∧ fbField u = fbField v ∧
      negBit u = negBit v ∧ reservedLow u = reservedLow v ∧ rndField u = rndField v ∧
      reservedHigh u = reservedHigh v := by
  constructor
  · rintro rfl
    simp
  · simp only [← BitVec.toNat_inj, opcField_toNat, fdField_toNat, faField_toNat, fbField_toNat, negBit_toNat,
      reservedLow_toNat, rndField_toNat, reservedHigh_toNat]
    omega

theorem fields_and (u v : Word) :
    opcField (u &&& v) = opcField u &&& opcField v ∧ fdField (u &&& v) = fdField u &&& fdField v ∧
      faField (u &&& v) = faField u &&& faField v ∧ fbField (u &&& v) = fbField u &&& fbField v ∧
      negBit (u &&& v) = negBit u &&& negBit v ∧ reservedLow (u &&& v) = reservedLow u &&& reservedLow v ∧
      rndField (u &&& v) = rndField u &&& rndField v ∧
      reservedHigh (u &&& v) = reservedHigh u &&& reservedHigh v := by
  simp only [opcField, fdField, faField, fbField, negBit, reservedLow, rndField, reservedHigh, BitVec.extractLsb'_and,
    and_self]

/-- What a row's mask can cover of an operand field: nothing, the class-range bits of an R or a Q index, or all (R91, R96). -/
def operandMasks : List (BitVec 4) := [0b0000, 0b1000, 0b1100, 0b1111]

/-- Outside OPC a row's `match` is 0, and its mask covers OPC and the reserved bits (R96). -/
theorem Opcode.row_shape (op : Opcode) :
    (fdField op.code = 0 ∧ faField op.code = 0 ∧ fbField op.code = 0 ∧ negBit op.code = 0 ∧ reservedLow op.code = 0 ∧
      rndField op.code = 0 ∧ reservedHigh op.code = 0) ∧
    (opcField op.mask = BitVec.allOnes 8 ∧ reservedLow op.mask = BitVec.allOnes 3 ∧
      reservedHigh op.mask = BitVec.allOnes 4) ∧
    ∀ m ∈ [fdField op.mask, faField op.mask, fbField op.mask, rndField op.mask], m ∈ operandMasks := by
  cases op <;> decide

/-- A field has no bit of its mask set exactly when its value is in range (R91). -/
theorem and_eq_zero_iff_le_fieldMax : ∀ m ∈ operandMasks, ∀ f, f &&& m = 0 ↔ f.toNat ≤ fieldMax m := by
  decide

theorem and_eq_zero_iff_le_fieldMax_bit : ∀ m f : BitVec 1, f &&& m = 0 ↔ f.toNat ≤ fieldMax m := by decide

/-- The words a row of the opcode map takes, field by field (R94, R96). -/
theorem Opcode.and_mask_eq_code_iff (op : Opcode) (w : Word) :
    w &&& op.mask = op.code ↔ opcField w = opcField op.code ∧ (fdField w).toNat ≤ fieldMax (fdField op.mask) ∧
      (faField w).toNat ≤ fieldMax (faField op.mask) ∧ (fbField w).toNat ≤ fieldMax (fbField op.mask) ∧
      (negBit w).toNat ≤ fieldMax (negBit op.mask) ∧ (reservedLow w).toNat = 0 ∧
      (rndField w).toNat ≤ fieldMax (rndField op.mask) ∧ (reservedHigh w).toNat = 0 := by
  obtain ⟨⟨hfd, hfa, hfb, hneg, hlow, hrnd, hhigh⟩, ⟨mopc, mlow, mhigh⟩, operands⟩ := op.row_shape
  simp only [List.forall_mem_cons] at operands
  obtain ⟨mfd, mfa, mfb, mrnd, -⟩ := operands
  rw [← and_eq_zero_iff_le_fieldMax _ mfd, ← and_eq_zero_iff_le_fieldMax _ mfa, ← and_eq_zero_iff_le_fieldMax _ mfb,
    ← and_eq_zero_iff_le_fieldMax _ mrnd, ← and_eq_zero_iff_le_fieldMax_bit, eq_iff_fields_eq, hfd, hfa, hfb, hneg, hlow,
    hrnd, hhigh]
  simp only [fields_and, mopc, mlow, mhigh, BitVec.and_allOnes, ← BitVec.toNat_inj]
  rfl

/-- The OPC column has no value twice, so a word's OPC selects one row (R96). -/
theorem opcodeOf_eq_some_iff (w : Word) (op : Opcode) : opcodeOf w = some op ↔ opcField w = opcField op.code := by
  constructor
  · intro h
    have hfound := List.find?_some (p := fun op : Opcode => op.code.extractLsb' 0 8 == opcField w) h
    exact (beq_iff_eq.1 hfound).symm
  · intro h
    unfold opcodeOf
    rw [h]
    cases op <;> rfl

theorem decode_of_row {w : Word} {op : Opcode} (hrow : opcField w = opcField op.code) :
    decode w = if w &&& op.mask = op.code then
      if op = .addrk ∧ ¬ roundLegal (rndField w) then .error .roundOutOfRange else .ok (op.command w)
    else .error .fixedBitSet := by
  simp only [decode, (opcodeOf_eq_some_iff w op).2 hrow]

/-- A word of a row, its fields in range, decodes to the row's command (R94, last line). -/
theorem decode_eq_command {w : Word} {op : Opcode} (hrow : opcField w = opcField op.code) (hmask : w &&& op.mask = op.code)
    (hround : op = .addrk → roundLegal (rndField w) = true) : decode w = .ok (op.command w) := by
  rw [decode_of_row hrow, if_pos hmask, if_neg fun h => h.2 (hround h.1)]

/-- A word of no row is ILLEGAL (R94, first line). -/
theorem decode_of_no_row {w : Word} (hnone : ¬ ∃ op : Opcode, opcField w = opcField op.code) :
    decode w = .error .unassignedOpcode := by
  have : opcodeOf w = none :=
    Option.eq_none_iff_forall_ne_some.2 fun op hop => hnone ⟨op, (opcodeOf_eq_some_iff w op).1 hop⟩
  simp only [decode, this]

theorem Opcode.mem_all (op : Opcode) : op ∈ Opcode.all := by cases op <;> decide

/-- The OPC column as numbers (R96). -/
theorem opcField_assigned_iff (w : Word) :
    (opcField w).toNat ∈ [0x00, 0x01, 0x02, 0x03, 0x04, 0x05, 0x08, 0x09, 0x10, 0x11, 0x12, 0x13, 0x14, 0x15, 0x16, 0x17,
      0x18, 0x19, 0x1A, 0x20, 0x21] ↔ ∃ op : Opcode, opcField w = opcField op.code := by
  change _ ∈ Opcode.all.map (fun op => (opcField op.code).toNat) ↔ _
  simp only [List.mem_map, Opcode.mem_all, true_and, BitVec.toNat_inj, eq_comm]

theorem roundLegal_iff (rnd : BitVec 4) : roundLegal rnd = true ↔ rnd.toNat ≤ 10 := decide_eq_true_iff

/-- Which words of a row are ILLEGAL: those with a field out of its range (R94, R97). -/
theorem decode_error_iff_of_row {w : Word} {op : Opcode} (hrow : opcField w = opcField op.code) :
    (∃ reason, decode w = .error reason) ↔
      fieldMax (fdField op.mask) < (fdField w).toNat ∨ fieldMax (faField op.mask) < (faField w).toNat ∨
      fieldMax (fbField op.mask) < (fbField w).toNat ∨ fieldMax (negBit op.mask) < (negBit w).toNat ∨
      (reservedLow w).toNat ≠ 0 ∨ fieldMax (rndField op.mask) < (rndField w).toNat ∨ (reservedHigh w).toNat ≠ 0 ∨
      (op = .addrk ∧ 10 < (rndField w).toNat) := by
  calc (∃ reason, decode w = .error reason)
      ↔ ¬ (w &&& op.mask = op.code) ∨ (op = .addrk ∧ ¬ roundLegal (rndField w)) := by
        rw [decode_of_row hrow]
        split
        case isFalse hmask => exact iff_of_true ⟨_, rfl⟩ (.inl hmask)
        case isTrue hmask =>
          split
          case isTrue hround => exact iff_of_true ⟨_, rfl⟩ (.inr hround)
          case isFalse hround => exact iff_of_false nofun (not_or_intro (not_not_intro hmask) hround)
    _ ↔ _ := by
        rw [op.and_mask_eq_code_iff, roundLegal_iff]
        simp only [hrow, true_and, not_and_or, not_le, or_assoc, ne_eq]

section
variable (op : Opcode) (n : Nat)

theorem Opcode.fdMax_lt_iff : fieldMax (fdField op.mask) < n ↔
    (n ≠ 0 ∧ (opcField op.code).toNat ∉ [0x01, 0x02, 0x03, 0x08, 0x09]) ∨
    (3 < n ∧ (opcField op.code).toNat ∈ [0x01, 0x02, 0x03]) ∨ (7 < n ∧ (opcField op.code).toNat ∈ [0x08, 0x09]) := by
  cases op <;> simp [fieldMax, fdField, mask, opcField, code, Nat.pos_iff_ne_zero]

theorem Opcode.faMax_lt_iff : fieldMax (faField op.mask) < n ↔
    (n ≠ 0 ∧ (opcField op.code).toNat ∉ [0x01, 0x02, 0x03, 0x04, 0x08, 0x09, 0x10]) ∨
    (3 < n ∧ (opcField op.code).toNat ∈ [0x01, 0x02, 0x03, 0x04, 0x10]) ∨
    (7 < n ∧ (opcField op.code).toNat ∈ [0x08, 0x09]) := by
  cases op <;> simp [fieldMax, faField, mask, opcField, code, Nat.pos_iff_ne_zero]

theorem Opcode.fbMax_lt_iff : fieldMax (fbField op.mask) < n ↔
    (n ≠ 0 ∧ (opcField op.code).toNat ∉ [0x01, 0x03]) ∨ (3 < n ∧ (opcField op.code).toNat = 0x01) ∨
    (7 < n ∧ (opcField op.code).toNat = 0x03) := by
  cases op <;> simp [fieldMax, fbField, mask, opcField, code, Nat.pos_iff_ne_zero]

theorem Opcode.negMax_lt_iff (v : BitVec 1) : fieldMax (negBit op.mask) < v.toNat ↔
    v.toNat = 1 ∧ (opcField op.code).toNat ≠ 0x03 := by
  revert v
  cases op <;> decide

theorem Opcode.rndMax_lt_iff (v : BitVec 4) : fieldMax (rndField op.mask) < v.toNat ↔
    v.toNat ≠ 0 ∧ (opcField op.code).toNat ≠ 0x1A := by
  revert v
  cases op <;> decide

theorem Opcode.eq_addrk_iff : op = .addrk ↔ (opcField op.code).toNat = 0x1A := by
  cases op <;> decide

end

end Sys2Proof
end

section
/-! SUPPORT. The completion of an ILLEGAL word (spec/60_exceptions.md R301), and the statements about the encoding. -/

namespace Sys2Proof.Machine

/-- The core's step that comes next, on the state with that turn taken (spec/20_memory.md R76). -/
theorem step_facing_core (s : State) : step (s.facing .core) = coreStep s := rfl

theorem coreStep_of_illegal {s : State} {reason : Illegal} (hbusy : s.status.busy = true)
    (hillegal : decode s.latch = .error reason) : coreStep s = .next (s.completedWith .illegal) := by
  obtain ⟨hidle, -⟩ | ⟨-, i, hlegal, -⟩ | ⟨-, -, -, hstep⟩ := coreStep_cases s
  · cases hbusy.symm.trans hidle
  · cases hillegal.symm.trans hlegal
  · rw [hstep, State.complete_eq_completedWith]

/-- Settles O2. A word whose OPC is in the map is ILLEGAL by a field out of its row's range, which the lemmas above sort into
the classes (2) to (6). -/
theorem illegalWordsAndTheirCompletion : Obligations.IllegalWordsAndTheirCompletion := by
  refine ⟨fun w => ?_, fun s reason hbusy hillegal =>
    (step_facing_core s).trans (coreStep_of_illegal hbusy hillegal)⟩
  simp only [← opcField_toNat, ← fdField_toNat, ← faField_toNat, ← fbField_toNat, ← negBit_toNat, ← reservedLow_toNat,
    ← rndField_toNat, ← reservedHigh_toNat]
  by_cases hassigned : ∃ op : Opcode, opcField w = opcField op.code
  · have hmem := (opcField_assigned_iff w).2 hassigned
    obtain ⟨op, hrow⟩ := hassigned
    rw [decode_error_iff_of_row hrow, op.fdMax_lt_iff, op.faMax_lt_iff, op.fbMax_lt_iff, op.negMax_lt_iff,
      op.rndMax_lt_iff, op.eq_addrk_iff, ← hrow, or_iff_right (not_not_intro hmem)]
    exact iff_of_eq (by ac_rfl)
  · exact iff_of_true ⟨_, decode_of_no_row hassigned⟩ (.inl (mt (opcField_assigned_iff w).1 hassigned))

/-- Settles O3: the words' rows, their operands read from the fields. -/
theorem writtenOutWordsDecode : Obligations.WrittenOutWordsDecode :=
  ⟨decode_eq_command (op := .ecadd) rfl rfl nofun, decode_eq_command (op := .ecmul) rfl rfl nofun,
    decode_eq_command (op := .modinv) rfl rfl nofun, decode_eq_command (op := .aeskeyx) rfl rfl nofun,
    decode_eq_command (op := .addrk) rfl rfl fun _ => rfl, decode_eq_command (op := .cbcdec) rfl rfl nofun,
    decode_eq_command (op := .nop) rfl rfl nofun⟩

end Sys2Proof.Machine
end

section
/-! SUPPORT. The checks that the curve and modular commands share (spec/40_modular.md R120, R121; spec/60_exceptions.md R302):
which operands each command checks, and what it completes with when a check fails. -/

namespace Sys2Proof.Machine

/-- A point operand has its coordinates checked exactly when it is finite (R121). -/
@[simp] theorem PointReg.mem_checked (pr : PointReg) (v : Field) :
    v ∈ pr.checked ↔ pr.inf = false ∧ (v = pr.x ∨ v = pr.y) := by
  cases h : pr.inf <;> simp [PointReg.checked, h]

theorem State.finish_error_eq (s : State) (code : ErrCode) : s.finish (.error code) = .next (s.completedWith code) := by
  rw [State.finish_error, State.complete_eq_completedWith]

theorem State.finish_writeR (s : State) (d : RIdx) (v : Field) :
    s.finish (.ok (s.writeR d v)) = .next (s.withField d v) := by
  rw [State.finish_ok, State.complete_eq_completedWith]
  rfl

section
variable {s : State} {operands : List Field}

theorem State.fieldError_of_badModulus (hP : s.p.toNat < 3 ∨ s.p.toNat % 2 = 0) :
    s.fieldError operands = some .modulus := by
  obtain ⟨-, e⟩ | ⟨hge, hodd, -⟩ | ⟨hge, hodd, -⟩ := s.fieldError_cases operands
  · exact e
  all_goals omega

theorem State.ModulusOk.fieldError_of_le (hP : s.ModulusOk) {v : Field} (hv : v ∈ operands)
    (hle : s.p.toNat ≤ v.toNat) : s.fieldError operands = some .range := by
  obtain ⟨hge, hodd⟩ := hP
  obtain ⟨hbad, -⟩ | ⟨-, -, -, e⟩ | ⟨-, -, hbelow, -⟩ := s.fieldError_cases operands
  · omega
  · exact e
  · exact absurd (hbelow v hv) (by omega)

theorem State.ModulusOk.fieldError_of_lt (hP : s.ModulusOk) (hbelow : ∀ v ∈ operands, v.toNat < s.p.toNat) :
    s.fieldError operands = none := by
  obtain ⟨hge, hodd⟩ := hP
  obtain ⟨hbad, -⟩ | ⟨-, -, ⟨v, hv, hle⟩, -⟩ | ⟨-, -, -, e⟩ := s.fieldError_cases operands
  · omega
  · exact absurd (hbelow v hv) (by omega)
  · exact e

/-- The checks of MODINV and MODSQRT pass (R130, R131). -/
theorem State.ModulusOk.fieldError_register (hP : s.ModulusOk) {a : RIdx} (ha : s.r[a].toNat < s.p.toNat) :
    s.fieldError [s.r[a]] = none :=
  hP.fieldError_of_lt (by simpa using ha)

end

/-- Every curve and modular command starts with the checks, over exactly the field operands R121 lists for it. -/
theorem exec_fieldCommand {i : Instr} (s : State) (hi : i.isFieldCommand = true) :
    ∃ operands rest, exec i s = s.finish (afterCheck (s.fieldError operands) rest) ∧
      ∀ v, v ∈ operands ↔ i.readsFieldValue s v := by
  cases i with
  | ecadd _ _ _ | ecdbl _ _ | ecmul _ _ _ _ | ecchk _ | ecdisc | modinv _ _ | modsqrt _ _ =>
    exact ⟨_, _, rfl, fun v => by simp [Instr.readsFieldValue]⟩
  | nop | aeskeyx _ | keyexp | aesenc | aesdec | subbytes | invsubbytes | shiftrows | invshiftrows | mixcolumns
  | invmixcolumns | addrk _ | cbcenc | cbcdec => cases hi

/-- Settles O11: the modulus check is the first one, whatever the operands. -/
theorem modulusErrorComesFirst : Obligations.ModulusErrorComesFirst := by
  intro i s hi hP
  obtain ⟨operands, rest, hexec, -⟩ := exec_fieldCommand s hi
  rw [hexec, State.fieldError_of_badModulus hP, afterCheck_some, State.finish_error_eq]

/-- Settles O12: the operand that is too big is one of those the command checks. -/
theorem rangeErrorComesSecond : Obligations.RangeErrorComesSecond := by
  intro i s v hi hP hreads hle
  obtain ⟨operands, rest, hexec, hoperands⟩ := exec_fieldCommand s hi
  rw [hexec, hP.fieldError_of_le ((hoperands v).2 hreads) hle, afterCheck_some, State.finish_error_eq]

end Sys2Proof.Machine
end

section
/-! SUPPORT. MODINV (spec/40_modular.md R124, R130): the Fermat power it writes, and when that is the inverse. -/

namespace Sys2Proof.Machine

/-- A value below P is written to a register unchanged, P being a register's value (spec/00_scope.md R6). -/
theorem toNat_ofNat_of_lt_field (P : Field) {v : Nat} (h : v < P.toNat) : (BitVec.ofNat 256 v).toNat = v := by
  rw [BitVec.toNat_ofNat, Nat.mod_eq_of_lt (h.trans P.isLt)]

/-- Fermat's little theorem as R124 uses it. -/
theorem mul_pow_sub_two_mod {P n : Nat} (hP : P.Prime) (h0 : n ≠ 0) (hlt : n < P) : n * (n ^ (P - 2) % P) % P = 1 := by
  have hcoprime : n.Coprime P := (Nat.coprime_of_lt_prime h0 hlt hP).symm
  calc n * (n ^ (P - 2) % P) % P
      = n ^ (P - 2 + 1) % P := by rw [Nat.mul_mod_mod, Nat.pow_succ']
    _ = n ^ P.totient % P := by rw [Nat.totient_prime hP, show P - 2 + 1 = P - 1 by have := hP.two_le; omega]
    _ = 1 % P := Nat.ModEq.pow_totient hcoprime
    _ = 1 := Nat.mod_eq_of_lt hP.one_lt

theorem exec_modinv {s : State} {a : RIdx} (d : RIdx) (hP : s.ModulusOk) (ha : s.r[a].toNat < s.p.toNat) :
    exec (.modinv d a) s = .next (s.withField d (BitVec.ofNat 256 (s.r[a].toNat ^ (s.p.toNat - 2) % s.p.toNat))) := by
  rw [← modinv_eq, ← State.finish_writeR, exec, execModinv, hP.fieldError_register ha, afterCheck_none]

/-- Settles O16: the power is below P, so the register holds it. -/
theorem modinvWritesFermatInverse : Obligations.ModinvWritesFermatInverse := by
  intro s d a hP ha
  have hge : 3 ≤ s.p.toNat := hP.1
  have hvalue : (BitVec.ofNat 256 (s.r[a].toNat ^ (s.p.toNat - 2) % s.p.toNat)).toNat =
      s.r[a].toNat ^ (s.p.toNat - 2) % s.p.toNat := toNat_ofNat_of_lt_field s.p (Nat.mod_lt _ (by omega))
  refine ⟨_, exec_modinv d hP ha, hvalue, fun hprime h0 => ?_, fun h0 => ?_⟩
  · rw [hvalue, mul_pow_sub_two_mod hprime h0 ha]
  · rw [hvalue, h0, Nat.zero_pow (by omega), Nat.zero_mod]

end Sys2Proof.Machine
end

section
/-! SUPPORT. MODSQRT (spec/40_modular.md R126 to R128, R131): the branches of `tsqrt`, its general path by the odd part of
P - 1 and the least non-residue, and what the command makes of the candidate root. -/

namespace Sys2Proof.Machine

/-! ### The least integer with a property -/

section
variable {prop : Nat → Bool} {count k n : Nat}

theorem leastFrom_eq_none (h : ∀ j, k ≤ j → j < k + count → prop j = false) : leastFrom prop count k = none := by
  cases hleast : leastFrom prop count k with
  | none => rfl
  | some n =>
    obtain ⟨hk, hcount, hn, -⟩ := leastFrom_some _ _ _ _ hleast
    cases hn.symm.trans (h n hk hcount)

theorem leastFrom_eq_some (hk : k ≤ n) (hcount : n < k + count) (hn : prop n = true)
    (hleast : ∀ j, k ≤ j → j < n → prop j = false) : leastFrom prop count k = some n := by
  cases hfound : leastFrom prop count k with
  | none => cases hn.symm.trans (leastFrom_none _ _ _ hfound n hk hcount)
  | some m =>
    obtain ⟨hkm, -, hm, hmleast⟩ := leastFrom_some _ _ _ _ hfound
    obtain hlt | rfl | hgt := Nat.lt_trichotomy m n
    · cases hm.symm.trans (hleast m hkm hlt)
    · rfl
    · cases hn.symm.trans (hmleast n hk hgt)

end

/-! ### The branches of `tsqrt` -/

section
variable {n P : Nat}

@[simp] theorem tsqrt_zero (P : Nat) : tsqrt 0 P = some 0 := rfl

theorem tsqrt_of_legendre_ne_one (h0 : n ≠ 0) (hleg : n ^ ((P - 1) / 2) % P ≠ 1) : tsqrt n P = none := by
  rw [tsqrt, if_neg h0, legendre_eq, if_pos hleg]

/-- The candidate root of the path that P takes, if it passes the final check of R127. -/
theorem tsqrt_of_legendre_eq_one (h0 : n ≠ 0) (hleg : n ^ ((P - 1) / 2) % P = 1) :
    tsqrt n P = (if P % 4 = 3 then some (n ^ ((P + 1) / 4) % P) else tsGeneral n P).filter fun r => r * r % P = n := by
  rw [tsqrt, if_neg h0, legendre_eq, if_neg (not_not.2 hleg), modexp_eq]
  cases (if P % 4 = 3 then some (n ^ ((P + 1) / 4) % P) else tsGeneral n P) with
  | none => rfl
  | some r => simp only [Option.filter_some, decide_eq_true_eq]

theorem tsqrt_fast (h0 : n ≠ 0) (hleg : n ^ ((P - 1) / 2) % P = 1) (h4 : P % 4 = 3) :
    tsqrt n P = (some (n ^ ((P + 1) / 4) % P)).filter fun r => r * r % P = n := by
  rw [tsqrt_of_legendre_eq_one h0 hleg, if_pos h4]

theorem tsqrt_general (h0 : n ≠ 0) (hleg : n ^ ((P - 1) / 2) % P = 1) (h4 : P % 4 ≠ 3) :
    tsqrt n P = (tsGeneral n P).filter fun r => r * r % P = n := by
  rw [tsqrt_of_legendre_eq_one h0 hleg, if_neg h4]

/-- The general path with any way of writing P - 1 as an odd number times a power of two, which is unique. -/
theorem tsGeneral_eq {q e : Nat} (hP : 1 < P) (hsplit : P - 1 = q * 2 ^ e) (hodd : q % 2 = 1) :
    tsGeneral n P = (leastFrom (fun z => legendre z P == P - 1) (P - 2) 2).bind fun z =>
      tsLoop e e (z ^ q % P) (n ^ q % P) (n ^ ((q + 1) / 2) % P) P := by
  obtain ⟨hspec, hspecOdd⟩ := oddPart_spec _ (P - 1) (by omega) Nat.lt_log2_self
  obtain ⟨hq, he⟩ := oddPart_unique _ _ _ _ hspecOdd hodd (hspec.symm.trans hsplit)
  have hpair : oddPart ((P - 1).log2 + 1) (P - 1) = (q, e) := Prod.ext hq he
  simp only [tsGeneral, hpair, modexp_eq]
  cases leastFrom (fun z => legendre z P == P - 1) (P - 2) 2 <;> rfl

theorem tsGeneral_of_no_nonresidue (hP : 1 < P) (hnone : ∀ z, 2 ≤ z → z < P → z ^ ((P - 1) / 2) % P ≠ P - 1) :
    tsGeneral n P = none := by
  obtain ⟨hsplit, hodd⟩ := oddPart_spec _ (P - 1) (by omega) Nat.lt_log2_self
  rw [tsGeneral_eq hP hsplit hodd, leastFrom_eq_none, Option.bind_none]
  intro z h2 hlt
  simpa [legendre_eq] using hnone z h2 (by omega)

theorem tsGeneral_of_least_nonresidue {q e z : Nat} (hP : 1 < P) (hsplit : P - 1 = q * 2 ^ e) (hodd : q % 2 = 1)
    (h2 : 2 ≤ z) (hlt : z < P) (hz : z ^ ((P - 1) / 2) % P = P - 1)
    (hleast : ∀ y, 2 ≤ y → y < z → y ^ ((P - 1) / 2) % P ≠ P - 1) :
    tsGeneral n P = tsLoop e e (z ^ q % P) (n ^ q % P) (n ^ ((q + 1) / 2) % P) P := by
  rw [tsGeneral_eq hP hsplit hodd, leastFrom_eq_some (n := z) h2 (by omega), Option.bind_some]
  · simpa [legendre_eq] using hz
  · intro y hy hyz
    simpa [legendre_eq] using hleast y hy hyz

/-! ### A root is below P and squares to its operand -/

theorem tsLoop_lt {fuel m c t r root : Nat} (hr : r < P) (h : tsLoop fuel m c t r P = some root) : root < P := by
  induction fuel generalizing m c t r with
  | zero => cases h
  | succ fuel ih =>
    rw [tsLoop] at h
    split at h
    · cases h
      exact hr
    · split at h
      · cases h
      · exact ih (Nat.mod_lt _ (by omega)) h

theorem tsGeneral_lt {root : Nat} (hP : 1 < P) (h : tsGeneral n P = some root) : root < P := by
  obtain ⟨hsplit, hodd⟩ := oddPart_spec _ (P - 1) (by omega) Nat.lt_log2_self
  rw [tsGeneral_eq hP hsplit hodd] at h
  obtain ⟨z, -, hloop⟩ := Option.bind_eq_some_iff.1 h
  exact tsLoop_lt (Nat.mod_lt _ (by omega)) hloop

/-- What R127 guarantees of a root, P being prime or not. -/
theorem tsqrt_some {root : Nat} (hP : 1 < P) (hn : n < P) (h : tsqrt n P = some root) : root < P ∧ root * root % P = n := by
  by_cases h0 : n = 0
  · subst h0
    cases h
    exact ⟨hn, Nat.zero_mod P⟩
  by_cases hleg : n ^ ((P - 1) / 2) % P = 1
  · rw [tsqrt_of_legendre_eq_one h0 hleg] at h
    obtain ⟨hcandidate, hsquare⟩ := Option.filter_eq_some_iff.1 h
    refine ⟨?_, of_decide_eq_true hsquare⟩
    split at hcandidate
    · cases hcandidate
      exact Nat.mod_lt _ (by omega)
    · exact tsGeneral_lt hP hcandidate
  · cases (tsqrt_of_legendre_ne_one h0 hleg).symm.trans h

end

/-! ### The command -/

section
variable {s : State} {a : RIdx} {root : Nat} (d : RIdx)

theorem exec_modsqrt_of_root (hP : s.ModulusOk) (ha : s.r[a].toNat < s.p.toNat)
    (hroot : tsqrt s.r[a].toNat s.p.toNat = some root) :
    exec (.modsqrt d a) s = .next (s.withField d (BitVec.ofNat 256 root)) := by
  rw [← State.finish_writeR, exec, execModsqrt, hP.fieldError_register ha, afterCheck_none, hroot]

theorem exec_modsqrt_of_noroot (hP : s.ModulusOk) (ha : s.r[a].toNat < s.p.toNat)
    (hroot : tsqrt s.r[a].toNat s.p.toNat = none) : exec (.modsqrt d a) s = .next (s.completedWith .noroot) := by
  rw [← State.finish_error_eq, exec, execModsqrt, hP.fieldError_register ha, afterCheck_none, hroot]

/-- A candidate root is written if it passes the final check of R127. -/
theorem exec_modsqrt_of_candidate (hP : s.ModulusOk) (ha : s.r[a].toNat < s.p.toNat)
    (hroot : tsqrt s.r[a].toNat s.p.toNat = (some root).filter fun r => r * r % s.p.toNat = s.r[a].toNat) :
    exec (.modsqrt d a) s = .next (if root * root % s.p.toNat = s.r[a].toNat then
      s.withField d (BitVec.ofNat 256 root) else s.completedWith .noroot) := by
  by_cases hsquare : root * root % s.p.toNat = s.r[a].toNat
  · rw [if_pos hsquare, exec_modsqrt_of_root d hP ha]
    rw [hroot, Option.filter_some, if_pos (decide_eq_true hsquare)]
  · rw [if_neg hsquare, exec_modsqrt_of_noroot d hP ha]
    rw [hroot, Option.filter_some, if_neg (by simpa using hsquare)]

end

/-- Settles O17: the final check of R127 stands before every root. -/
theorem modsqrtNeverReturnsAWrongRoot : Obligations.ModsqrtNeverReturnsAWrongRoot := by
  intro s d a hP ha
  cases hroot : tsqrt s.r[a].toNat s.p.toNat with
  | none => exact .inr (exec_modsqrt_of_noroot d hP ha hroot)
  | some root =>
    have hge : 3 ≤ s.p.toNat := hP.1
    obtain ⟨hlt, hsquare⟩ := tsqrt_some (by omega) ha hroot
    refine .inl ⟨_, exec_modsqrt_of_root d hP ha hroot, ?_⟩
    rw [toNat_ofNat_of_lt_field s.p hlt]
    exact ⟨hlt, hsquare⟩

/-- Settles O18, by the branches of `tsqrt`; on the general path the loop's run is `tsLoop_runs`, whose fuel `e` is at least
1 as P - 1 is even. -/
theorem modsqrtLegendreAndFastPath : Obligations.ModsqrtLegendreAndFastPath := by
  intro s d a hP ha P n legendreOf checked
  have hge : 3 ≤ P := hP.1
  refine ⟨fun h0 => ?_, fun h0 hleg => ?_, fun h0 hleg h4 => ?_, fun h0 hleg h4 q e hsplit hq => ⟨fun hnone => ?_, ?_⟩⟩
  · exact exec_modsqrt_of_root d hP ha (show tsqrt n P = some 0 by rw [h0, tsqrt_zero])
  · exact exec_modsqrt_of_noroot d hP ha (tsqrt_of_legendre_ne_one h0 hleg)
  · exact exec_modsqrt_of_candidate d hP ha (tsqrt_fast h0 hleg h4)
  · have hgeneral : tsGeneral n P = none := tsGeneral_of_no_nonresidue (by omega) hnone
    refine exec_modsqrt_of_noroot d hP ha ((tsqrt_general h0 hleg (by omega)).trans ?_)
    rw [hgeneral, Option.filter_none]
  · intro z h2 hlt hz hleast
    have hgeneral := tsGeneral_of_least_nonresidue (n := n) (by omega) hsplit hq h2 hlt hz hleast
    have htsqrt := tsqrt_general h0 hleg (by omega)
    have he : 1 ≤ e := by
      refine Nat.one_le_iff_ne_zero.2 fun he => ?_
      rw [he, Nat.pow_zero] at hsplit
      omega
    obtain ⟨last, hrun, ⟨ht, hloop⟩ | ⟨ht, hnone, hloop⟩⟩ :=
      tsLoop_runs P e e (z ^ q % P) (n ^ q % P) (n ^ ((q + 1) / 2) % P) he le_rfl
    · rw [hgeneral, hloop] at htsqrt
      exact ⟨last, hrun, .inl ⟨ht, exec_modsqrt_of_candidate d hP ha htsqrt⟩⟩
    · rw [hgeneral, hloop, Option.filter_none] at htsqrt
      exact ⟨last, hrun, .inr ⟨ht, hnone, exec_modsqrt_of_noroot d hP ha htsqrt⟩⟩

end Sys2Proof.Machine
end

section
/-! SUPPORT. The curve commands once their checks pass (spec/40_modular.md R120, R121; spec/41_ecc.md R155 to R162): what each
writes, as a point value or a flag. -/

namespace Sys2Proof.Machine

theorem State.ModulusOk.p_pos {s : State} (hP : s.ModulusOk) : 0 < s.p.toNat := Nat.zero_lt_of_lt hP.1

theorem State.finish_writeQ (s : State) (d : QIdx) (v : PointReg) :
    s.finish (.ok (s.writeQ d v)) = .next (s.withPoint d v) := by
  rw [State.finish_ok, State.complete_eq_completedWith]
  rfl

/-- The checks ask which operands there are, not in what order or how often (R121). -/
theorem State.fieldError_congr (s : State) {l m : List Field} (h : ∀ v, v ∈ l ↔ v ∈ m) :
    s.fieldError l = s.fieldError m := by
  have hany : (l.any fun v => decide (s.p.toNat ≤ v.toNat)) = m.any fun v => decide (s.p.toNat ≤ v.toNat) := by
    rw [Bool.eq_iff_iff]
    simp only [List.any_eq_true, h]
  simp only [State.fieldError, hany]

theorem State.PointOk.lt_of_mem_checked {s : State} {j : QIdx} (h : s.PointOk j) {v : Field} (hv : v ∈ s.q[j].checked) :
    v.toNat < s.p.toNat := by
  obtain ⟨hfin, rfl | rfl⟩ := (s.q[j].mem_checked v).1 hv
  · exact (h hfin).1
  · exact (h hfin).2

section
variable {s : State} {a b : QIdx} (d : QIdx)

/-- The checks of ECDBL and ECMUL pass (R156, R157). -/
theorem State.ModulusOk.fieldError_point (hP : s.ModulusOk) (hA : s.a.toNat < s.p.toNat) (ha : s.PointOk a) :
    s.fieldError (s.a :: s.q[a].checked) = none :=
  hP.fieldError_of_lt (List.forall_mem_cons.2 ⟨hA, fun _ => ha.lt_of_mem_checked⟩)

theorem exec_ecadd (hP : s.ModulusOk) (hA : s.a.toNat < s.p.toNat) (ha : s.PointOk a) (hb : s.PointOk b) :
    exec (.ecadd d a b) s = .next (s.withPoint d (padd s.p.toNat s.a.toNat s.q[a].toPoint s.q[b].toPoint).toReg) := by
  have hchecks : s.fieldError (s.a :: (s.q[a].checked ++ s.q[b].checked)) = none :=
    hP.fieldError_of_lt (List.forall_mem_cons.2 ⟨hA, List.forall_mem_append.2
      ⟨fun _ => ha.lt_of_mem_checked, fun _ => hb.lt_of_mem_checked⟩⟩)
  rw [exec, execEcadd, hchecks, afterCheck_none, State.finish_writeQ]

theorem exec_ecdbl (hP : s.ModulusOk) (hA : s.a.toNat < s.p.toNat) (ha : s.PointOk a) :
    exec (.ecdbl d a) s = .next (s.withPoint d (padd s.p.toNat s.a.toNat s.q[a].toPoint s.q[a].toPoint).toReg) := by
  rw [exec, execEcdbl, hP.fieldError_point hA ha, afterCheck_none, State.finish_writeQ]

theorem exec_ecmul (b : RIdx) (neg : Bool) (hP : s.ModulusOk) (hA : s.a.toNat < s.p.toNat) (ha : s.PointOk a) :
    exec (.ecmul d a b neg) s =
      .next (s.withPoint d (pmul s.p.toNat s.a.toNat s.r[b].toNat neg s.q[a].toPoint).toReg) := by
  rw [exec, execEcmul, hP.fieldError_point hA ha, afterCheck_none, State.finish_writeQ]

theorem exec_ecchk (hP : s.ModulusOk) (hA : s.a.toNat < s.p.toNat) (hB : s.b.toNat < s.p.toNat) (ha : s.PointOk a) :
    exec (.ecchk a) s = .next { s with status :=
      { s.status.completed .ok with oncurve := onCurve s.p.toNat s.a.toNat s.b.toNat s.q[a].toPoint } } := by
  have hchecks : s.fieldError (s.a :: s.b :: s.q[a].checked) = none :=
    hP.fieldError_of_lt (List.forall_mem_cons.2 ⟨hA, List.forall_mem_cons.2 ⟨hB, fun _ => ha.lt_of_mem_checked⟩⟩)
  rw [exec, execEcchk, hchecks, afterCheck_none, State.finish_ok, State.complete_eq_completedWith]
  rfl

theorem exec_ecdisc (hP : s.ModulusOk) (hA : s.a.toNat < s.p.toNat) (hB : s.b.toNat < s.p.toNat) :
    exec .ecdisc s = .next { s with status :=
      { s.status.completed .ok with nonsing := nonSingular s.p.toNat s.a.toNat s.b.toNat } } := by
  have hchecks : s.fieldError [s.a, s.b] = none := hP.fieldError_of_lt (by simp [hA, hB])
  rw [exec, execEcdisc, hchecks, afterCheck_none, State.finish_ok, State.complete_eq_completedWith]
  rfl

end

/-- Settles O24: one point read twice gives the operands of ECDBL, so the checks answer alike and the sum is the same. -/
theorem ecaddOfOnePointIsEcdbl : Obligations.EcaddOfOnePointIsEcdbl := by
  intro s d a b hpoint
  have hchecks : s.fieldError (s.a :: (s.q[a].checked ++ s.q[a].checked)) = s.fieldError (s.a :: s.q[a].checked) :=
    s.fieldError_congr fun v => by simp
  rw [exec, execEcadd, exec, execEcdbl, ← hpoint, hchecks]

/-- Membership of a register's point, over the integers (R160). -/
theorem onCurve_toPoint_iff (P A B : Nat) (pr : PointReg) :
    onCurve P A B pr.toPoint = true ↔
      pr.inf = true ∨ (pr.y.toNat : Int) ^ 2 ≡ (pr.x.toNat : Int) ^ 3 + A * pr.x.toNat + B [ZMOD P] := by
  obtain ⟨hinf, hpoint⟩ | ⟨hfin, hpoint⟩ := pr.toPoint_cases
  · simp [hpoint, hinf, onCurve]
  · have hcast : pr.y.toNat * pr.y.toNat % P = (pr.x.toNat * pr.x.toNat * pr.x.toNat + A * pr.x.toNat + B) % P ↔
        (pr.y.toNat : Int) ^ 2 ≡ (pr.x.toNat : Int) ^ 3 + A * pr.x.toNat + B [ZMOD P] := by
      rw [pow_two, pow_three']
      exact_mod_cast (Int.natCast_modEq_iff (n := P)).symm
    simp [hpoint, hfin, onCurve, hcast]

theorem nonSingular_iff (P A B : Nat) : nonSingular P A B = true ↔ ¬ P ∣ 4 * A ^ 3 + 27 * B ^ 2 := by
  rw [nonSingular, bne_iff_ne, Nat.dvd_iff_mod_eq_zero, show 4 * A ^ 3 + 27 * B ^ 2 = 4 * A * A * A + 27 * B * B by ring]

/-- Settles O28: the flag is what `oncurve` answers for the register's point. -/
theorem ecchkReportsMembership : Obligations.EcchkReportsMembership :=
  fun _ _ hP hA hB ha => ⟨_, exec_ecchk hP hA hB ha, onCurve_toPoint_iff _ _ _ _⟩

/-- Settles O29: the flag is what `nonsing` answers, the remainder of the discriminant not being 0. -/
theorem ecdiscReportsNonSingularity : Obligations.EcdiscReportsNonSingularity :=
  fun _ hP hA hB => ⟨_, exec_ecdisc hP hA hB, nonSingular_iff _ _ _⟩

end Sys2Proof.Machine
end

section
/-! SUPPORT. Point addition in registers (spec/41_ecc.md R150 to R152): the slopes and coordinates as integers reduced mod P,
which operands are inverses, and the statements about ECADD and ECDBL. -/

namespace Sys2Proof.Machine

section
variable {pr : PointReg}

theorem PointReg.toPoint_inf (h : pr.inf = true) : pr.toPoint = .inf := if_pos h

theorem PointReg.toPoint_fin (h : pr.inf = false) : pr.toPoint = .fin pr.x.toNat pr.y.toNat := by
  rw [PointReg.toPoint, h, if_neg Bool.false_ne_true]

/-- A point register read and written back: INF loses its coordinates (R27, R150). -/
theorem PointReg.toReg_toPoint_eq (pr : PointReg) :
    pr.toPoint.toReg = if pr.inf then { inf := true, x := 0, y := 0 } else pr := by
  split
  · next h => rw [PointReg.toPoint_inf h, Point.toReg]
  · next h => exact pr.toReg_toPoint (by simpa using h)

end

section
variable {P : Nat}

/-- The slope of the chord, over the integers (R151, R122, R124). -/
theorem chordSlope_cast (hP : 0 < P) (x1 y1 x2 y2 : Nat) :
    (chordSlope P x1 y1 x2 y2 : Int) = ((y2 : Int) - y1) * ((x2 : Int) - x1) ^ (P - 2) % P := by
  rw [chordSlope, modinv_eq]
  push_cast
  rw [intMod_cast _ _ hP, intMod_cast _ _ hP]
  exact (Int.mod_modEq _ _).mul ((Int.mod_modEq _ _).trans ((Int.mod_modEq _ _).pow _))

/-- The slope of the tangent, over the integers (R151, R122, R124). -/
theorem tangentSlope_cast (P A x1 y1 : Nat) :
    (tangentSlope P A x1 y1 : Int) = (3 * (x1 : Int) * x1 + A) * (2 * (y1 : Int)) ^ (P - 2) % P := by
  rw [tangentSlope, modinv_eq]
  push_cast
  exact (Int.mod_modEq _ _).mul ((Int.mod_modEq _ _).trans ((Int.mod_modEq _ _).pow _))

/-- A chord through two points with one x has slope 0, as `inv(0) = 0` for `P > 2` (R152 item 3). -/
theorem chordSlope_same_x (hP : 2 < P) (x y1 y2 : Nat) : chordSlope P x y1 x y2 = 0 := by
  have hcast := chordSlope_cast (P := P) (by omega) x y1 x y2
  rw [sub_self, zero_pow (by omega), mul_zero, Int.zero_emod] at hcast
  exact_mod_cast hcast

/-- The negated y-coordinate `(P - y) mod P` is `-y mod P` over the integers (R153). -/
theorem sub_mod_cast {y : Nat} (hy : y ≤ P) : (((P - y) % P : Nat) : Int) = (-(y : Int)) % P := by
  rw [Int.natCast_mod, Nat.cast_sub hy, sub_eq_add_neg, Int.add_emod_left]

/-- Which y-coordinates are inverse: those whose sum is 0 mod P (R151). -/
theorem eq_sub_mod_iff {y1 y2 : Nat} (h1 : y1 < P) (h2 : y2 < P) : y1 = (P - y2) % P ↔ (y1 + y2) % P = 0 := by
  obtain rfl | hpos := Nat.eq_zero_or_pos y2
  · rw [Nat.sub_zero, Nat.mod_self, Nat.add_zero, Nat.mod_eq_of_lt h1]
  · rw [Nat.mod_eq_of_lt (by omega : P - y2 < P)]
    refine ⟨fun h => ?_, fun h => ?_⟩
    · rw [h, Nat.sub_add_cancel h2.le, Nat.mod_self]
    · have hsum : y1 + y2 = P := Nat.eq_of_dvd_of_lt_two_mul (by omega) (Nat.dvd_of_mod_eq_zero h) (by omega)
      omega

/-- No point but one with `y = 0` is its own inverse, as P is odd (R152). -/
theorem ne_sub_mod_self {y : Nat} (hodd : P % 2 = 1) (h0 : y ≠ 0) (hy : y < P) : y ≠ (P - y) % P := by
  rw [Nat.mod_eq_of_lt (by omega)]
  omega

end

/-- The register that holds a point computed from a slope, its coordinates over the integers (R151). -/
theorem chordPoint_toReg (P : Field) (hP : 0 < P.toNat) (lam x1 y1 x2 : Nat) : ∃ x3 y3 : Field,
    (chordPoint P.toNat lam x1 y1 x2).toReg = { inf := false, x := x3, y := y3 } ∧
    (x3.toNat : Int) = ((lam : Int) * lam - x1 - x2) % P.toNat ∧
    (y3.toNat : Int) = ((lam : Int) * (x1 - x3.toNat) - y1) % P.toNat := by
  have hvalue (u : Int) : (BitVec.ofNat 256 (intMod u P.toNat)).toNat = intMod u P.toNat :=
    toNat_ofNat_of_lt_field P (intMod_lt u P.toNat hP)
  exact ⟨_, _, rfl, by rw [hvalue, intMod_cast _ _ hP], by rw [hvalue, hvalue, intMod_cast _ _ hP]⟩

/-- Settles O20: INF is the identity of `padd`. -/
theorem ecaddIdentity : Obligations.EcaddIdentity := by
  intro s d a b hP hA ha hb
  rw [exec_ecadd d hP hA ha hb]
  refine ⟨fun hinf => ?_, fun hinf => ?_⟩
  · rw [PointReg.toPoint_inf hinf, padd_inf_left, PointReg.toReg_toPoint_eq]
  · rw [PointReg.toPoint_inf hinf, padd_inf_right, PointReg.toReg_toPoint_eq]

/-- Settles O21: points with different x are neither equal nor inverses, so the general branch of `padd` is taken. -/
theorem ecaddChord : Obligations.EcaddChord := by
  intro s d a b hP hA ha hb hafin hbfin hx P x1 y1 x2 y2 slope
  have hne : s.q[a].x.toNat ≠ s.q[b].x.toNat := fun h => hx (BitVec.eq_of_toNat_eq h)
  have hslope : (chordSlope s.p.toNat s.q[a].x.toNat s.q[a].y.toNat s.q[b].x.toNat s.q[b].y.toNat : Int) = slope :=
    chordSlope_cast hP.p_pos _ _ _ _
  rw [exec_ecadd d hP hA ha hb, PointReg.toPoint_fin hafin, PointReg.toPoint_fin hbfin,
    padd_chord _ _ _ _ _ _ (fun h => hne h.1) (fun h => hne h.1), ← hslope]
  obtain ⟨x3, y3, hreg, hx3, hy3⟩ := chordPoint_toReg s.p hP.p_pos _ _ _ _
  exact ⟨x3, y3, by rw [hreg], hx3, hy3⟩

/-- Settles O22: inverses by the sum of their y-coordinates; the others take the general branch, where the slope is 0. -/
theorem ecaddSameX : Obligations.EcaddSameX := by
  intro s d a b hP hA ha hb hafin hbfin hx
  have hinverse := eq_sub_mod_iff (ha hafin).2 (hb hbfin).2
  rw [exec_ecadd d hP hA ha hb, PointReg.toPoint_fin hafin, PointReg.toPoint_fin hbfin, ← hx]
  refine ⟨fun hsum => ?_, fun hsum hy => ?_⟩
  · rw [padd_inverse _ _ _ _ _ (hinverse.2 hsum), Point.toReg]
  · rw [padd_chord _ _ _ _ _ _ (fun h => hsum (hinverse.1 h.2)) (fun h => hy (BitVec.eq_of_toNat_eq h.2)),
      chordSlope_same_x hP.1]
    obtain ⟨x3, y3, hreg, hx3, hy3⟩ := chordPoint_toReg s.p hP.p_pos 0 s.q[a].x.toNat s.q[a].y.toNat s.q[a].x.toNat
    refine ⟨x3, y3, by rw [hreg], hx3.trans ?_, hy3.trans ?_⟩
    · congr 1
      push_cast
      ring
    · rw [Nat.cast_zero, zero_mul, zero_sub]

/-- Settles O23: INF and a point with `y = 0` double to INF; no other finite point is its own inverse, P being odd. -/
theorem ecdblTangent : Obligations.EcdblTangent := by
  intro s d a hP hA ha P x1 y1 slope
  rw [exec_ecdbl d hP hA ha]
  refine ⟨fun hcase => ?_, fun hfin hy => ?_⟩
  · obtain ⟨-, hpoint⟩ | ⟨hfin, hpoint⟩ := s.q[a].toPoint_cases
    · rw [hpoint, padd_inf_left, Point.toReg]
    · have hy : s.q[a].y.toNat = 0 := BitVec.toNat_eq.1 (hcase.resolve_left (Bool.not_eq_true _ ▸ hfin))
      have hself : 0 = (s.p.toNat - 0) % s.p.toNat := (Nat.mod_self _).symm
      rw [hpoint, hy, padd_inverse _ _ _ _ _ hself, Point.toReg]
  · have hy0 : s.q[a].y.toNat ≠ 0 := fun h => hy (BitVec.eq_of_toNat_eq h)
    have hslope : (tangentSlope s.p.toNat s.a.toNat s.q[a].x.toNat s.q[a].y.toNat : Int) = slope :=
      tangentSlope_cast _ _ _ _
    rw [PointReg.toPoint_fin hfin, padd_double _ _ _ _ (ne_sub_mod_self hP.2 hy0 (ha hfin).2) hy0, ← hslope]
    obtain ⟨x3, y3, hreg, hx3, hy3⟩ := chordPoint_toReg s.p hP.p_pos _ _ _ _
    exact ⟨x3, y3, by rw [hreg], hx3, hy3⟩

end Sys2Proof.Machine
end

section
/-! SUPPORT. Scalar multiplication (spec/41_ecc.md R153, R154, R157): the loop of `pmul` as a fold over the bits of the
scalar, and the statements about ECMUL. -/

namespace Sys2Proof.Machine

/-- One round of the double-and-add loop of R154: the result takes the addend if the scalar's bit is set, and the addend is
doubled. -/
def doubleAndAdd (P A : Nat) (acc : Point × Point) (bit : Bool) : Point × Point :=
  (if bit then padd P A acc.1 acc.2 else acc.1, padd P A acc.2 acc.2)

section
variable {P A k : Nat}

theorem pmulLoop_succ (n : Nat) (acc : Point × Point) :
    pmulLoop P A (n + 1) k acc.1 acc.2 =
      pmulLoop P A n (k / 2) (doubleAndAdd P A acc (k.testBit 0)).1 (doubleAndAdd P A acc (k.testBit 0)).2 := by
  simp only [pmulLoop, doubleAndAdd, Nat.testBit_zero, decide_eq_true_eq]

/-- The loop over `n` bits is a fold over the bits, least significant first. -/
theorem pmulLoop_eq_foldl (n k : Nat) (acc : Point × Point) :
    pmulLoop P A n k acc.1 acc.2 =
      ((List.range n).foldl (fun acc i => doubleAndAdd P A acc (k.testBit i)) acc).1 := by
  induction n generalizing k acc with
  | zero => rfl
  | succ n ih =>
    rw [pmulLoop_succ, ih, List.range_succ_eq_map, List.foldl_cons, List.foldl_map]
    simp only [Nat.succ_eq_add_one, Nat.testBit_succ]

theorem pmulLoop_zero (n : Nat) (result addend : Point) : pmulLoop P A n 0 result addend = result := by
  induction n generalizing addend with
  | zero => rfl
  | succ n ih => exact ih _

theorem pmulLoop_inf (n k : Nat) : pmulLoop P A n k .inf .inf = .inf := by
  induction n generalizing k with
  | zero => rfl
  | succ n ih => rw [pmulLoop, padd_inf_left, ite_self, ih]

/-- The bits above the scalar's length change nothing. -/
theorem pmulLoop_eq_of_le {m n : Nat} (hk : k < 2 ^ m) (hle : m ≤ n) (result addend : Point) :
    pmulLoop P A n k result addend = pmulLoop P A m k result addend := by
  induction m generalizing n k result addend with
  | zero => rw [Nat.lt_one_iff.1 hk, pmulLoop_zero, pmulLoop_zero]
  | succ m ih =>
    obtain ⟨n, rfl⟩ := Nat.exists_eq_add_of_le' (Nat.one_le_of_lt hle)
    rw [pmulLoop, pmulLoop, ih (by rw [Nat.pow_succ] at hk; omega) (by omega)]

theorem lt_two_pow_bitlen (k : Nat) : k < 2 ^ bitlen k := by
  unfold bitlen
  split
  · omega
  · exact Nat.lt_log2_self

theorem bitlen_le {n : Nat} (hk : k < 2 ^ n) : bitlen k ≤ n := by
  unfold bitlen
  split
  · exact Nat.zero_le n
  · next h0 => exact (Nat.log2_lt h0).2 hk

/-- The point that `pmul` starts from: its operand, or with NEG its negation (R154). -/
def pmulStart (P : Nat) (neg : Bool) (pt : Point) : Point := if neg then pneg P pt else pt

theorem pmulStart_toPoint (neg : Bool) (pr : PointReg) :
    pmulStart P neg pr.toPoint =
      if pr.inf then .inf
      else if neg then .fin pr.x.toNat ((P - pr.y.toNat) % P)
      else .fin pr.x.toNat pr.y.toNat := by
  obtain ⟨hinf, hpoint⟩ | ⟨hfin, hpoint⟩ := pr.toPoint_cases
  · rw [hpoint, hinf]
    cases neg <;> rfl
  · rw [hpoint, hfin]
    cases neg <;> rfl

/-- `pmul` needs no case of its own for the scalar 0 and for INF: the loop gives INF for both. -/
theorem pmul_eq_pmulLoop {n : Nat} (hk : k < 2 ^ n) (neg : Bool) (pt : Point) :
    pmul P A k neg pt = pmulLoop P A n k .inf (pmulStart P neg pt) := by
  rw [pmul, ← pmulStart]
  split
  · next h =>
    obtain rfl | hinf := h
    · rw [pmulLoop_zero]
    · rw [hinf, pmulLoop_inf]
  · rw [pmulLoop_eq_of_le (lt_two_pow_bitlen k) (bitlen_le hk)]

theorem pmul_zero (neg : Bool) (pt : Point) : pmul P A 0 neg pt = .inf :=
  pmul_eq_pmulLoop (n := 0) Nat.one_pos neg pt

theorem pmul_inf (k : Nat) (neg : Bool) : pmul P A k neg .inf = .inf := by
  cases neg <;> simp [pmul, pneg]

theorem pmul_one (neg : Bool) (pt : Point) : pmul P A 1 neg pt = pmulStart P neg pt := by
  rw [pmul_eq_pmulLoop (n := 1) Nat.one_lt_two, pmulLoop, if_pos rfl, padd_inf_left, pmulLoop]

end

/-- Settles O25: `pmul` is its loop over all 256 bits, and the loop is the fold. -/
theorem ecmulDoublesAndAdds : Obligations.EcmulDoublesAndAdds := by
  intro s d a b neg hP hA ha P start last
  have hlast : pmul P s.a.toNat s.r[b].toNat neg s.q[a].toPoint = last.1 := by
    rw [pmul_eq_pmulLoop s.r[b].isLt, pmulStart_toPoint]
    exact pmulLoop_eq_foldl 256 s.r[b].toNat (.inf, start)
  rw [exec_ecmul d b neg hP hA ha, hlast]

/-- Settles O26, by what `pmul` answers for the scalars 0 and 1 and for INF. -/
theorem ecmulByZeroAndOne : Obligations.EcmulByZeroAndOne := by
  intro s d a b neg hP hA ha
  rw [exec_ecmul d b neg hP hA ha]
  refine ⟨?_, fun h1 hfin hneg => ?_, fun h1 hfin hneg => ?_⟩
  · rintro (h0 | hinf)
    · rw [h0, pmul_zero, Point.toReg]
    · rw [PointReg.toPoint_inf hinf, pmul_inf, Point.toReg]
  · rw [h1, hneg, pmul_one, pmulStart, if_neg Bool.false_ne_true, s.q[a].toReg_toPoint hfin]
  · refine ⟨BitVec.ofNat 256 ((s.p.toNat - s.q[a].y.toNat) % s.p.toNat), ?_, ?_⟩
    · rw [h1, hneg, pmul_one, pmulStart, if_pos rfl, PointReg.toPoint_fin hfin, pneg, Point.toReg, BitVec.ofNat_toNat,
        BitVec.setWidth_eq]
    · rw [toNat_ofNat_of_lt_field s.p (Nat.mod_lt _ hP.p_pos), sub_mod_cast (ha hfin).2.le]

end Sys2Proof.Machine
end

section
/-! SUPPORT. The AES commands on the state (spec/42_aes.md R220 to R230): each writes STATE and completes, so a pair of them
is one write of STATE. -/

namespace Sys2Proof.Machine

section
variable (s : State)

@[simp] theorem State.withBlock_block (v : Block) : (s.withBlock v).block = v := rfl

@[simp] theorem State.withBlock_rk (v : Block) : (s.withBlock v).rk = s.rk := rfl

theorem State.finish_writeSchedule (rks : Vector Block 11) :
    s.finish (.ok (s.writeSchedule rks)) =
      .next { s with rk := rks, status := { s.status.completed .ok with rkv := true } } := by
  rw [State.finish_ok, State.complete_eq_completedWith]
  rfl

theorem State.finish_writeBlock (v : Block) : s.finish (.ok (s.writeBlock v)) = .next (s.withBlock v) := by
  rw [State.finish_ok, State.complete_eq_completedWith]
  rfl

@[simp] theorem exec_subbytes : exec .subbytes s = .next (s.withBlock (subBytes s.block)) := s.finish_writeBlock _

@[simp] theorem exec_invsubbytes : exec .invsubbytes s = .next (s.withBlock (invSubBytes s.block)) :=
  s.finish_writeBlock _

@[simp] theorem exec_shiftrows : exec .shiftrows s = .next (s.withBlock (shiftRows s.block)) := s.finish_writeBlock _

@[simp] theorem exec_invshiftrows : exec .invshiftrows s = .next (s.withBlock (invShiftRows s.block)) :=
  s.finish_writeBlock _

@[simp] theorem exec_mixcolumns : exec .mixcolumns s = .next (s.withBlock (mixColumns s.block)) := s.finish_writeBlock _

@[simp] theorem exec_invmixcolumns : exec .invmixcolumns s = .next (s.withBlock (invMixColumns s.block)) :=
  s.finish_writeBlock _

variable {s}

theorem exec_aesenc (hrkv : s.status.rkv = true) : exec .aesenc s = .next (s.withBlock (aesEnc s.rk s.block)) := by
  rw [exec, execAesenc, s.keyError_true hrkv, afterCheck_none, s.finish_writeBlock]

theorem exec_aesdec (hrkv : s.status.rkv = true) : exec .aesdec s = .next (s.withBlock (aesDec s.rk s.block)) := by
  rw [exec, execAesdec, s.keyError_true hrkv, afterCheck_none, s.finish_writeBlock]

theorem exec_addrk {rnd : BitVec 4} (hrnd : rnd.toNat < 11) (hrkv : s.status.rkv = true) :
    exec (.addrk rnd) s = .next (s.withBlock (addRoundKey s.block s.rk[rnd.toNat])) := by
  simp only [exec, execAddrk, State.roundKey_eq, dif_pos hrnd, s.keyError_true hrkv, afterCheck_none, s.finish_writeBlock]

theorem exec_addrk_of_illegal {rnd : BitVec 4} (hrnd : 10 < rnd.toNat) :
    exec (.addrk rnd) s = .next (s.completedWith .illegal) := by
  simp only [exec, execAddrk, State.roundKey_eq, dif_neg (show ¬ rnd.toNat < 11 by omega), State.finish_error_eq]

/-- A command that writes STATE and one that writes STATE back as it was leave the completion fields alone changed. -/
theorem runCommands_undo {i j : Instr} {v : Block} (hi : exec i s = .next (s.withBlock v))
    (hj : exec j (s.withBlock v) = .next ((s.withBlock v).withBlock s.block)) :
    runCommands [i, j] s = .next (s.completedWith .ok) := by
  simp only [runCommands, hi, hj]
  rfl

end

/-- Settles O33: with RKV set, the check of the round keys passes. -/
theorem aesCommandsApplyTheCipher : Obligations.AesCommandsApplyTheCipher :=
  fun _ hrkv => ⟨exec_aesenc hrkv, exec_aesdec hrkv⟩

/-- Settles O42: AddRoundKey on the bytes, and no round key for an index above 10. -/
theorem addrkXorsTheRoundKey : Obligations.AddrkXorsTheRoundKey :=
  fun _ _ => ⟨fun hrnd hrkv => ⟨_, exec_addrk hrnd hrkv, fun j _ => byteAt_addRoundKey _ _ j⟩, exec_addrk_of_illegal⟩

/-- A key byte lies below bit 128 of the x-coordinate, so the reduction keeps it. -/
theorem byteAt_keyred (x : Field) {j : Nat} (hj : j < 16) : byteAt (keyred x) j = byteAt x j := by
  have hkeyred : keyred x = x.setWidth 128 := BitVec.eq_of_toNat_eq (by simp [keyred])
  rw [hkeyred]
  apply BitVec.eq_of_getLsbD_eq
  intro i hi
  have hbit : 8 * j + i < 128 := by omega
  simp [byteAt, hbit]

/-- Settles O31: the key written is `keyred` of the x-coordinate. -/
theorem aeskeyxReducesTheSecret : Obligations.AeskeyxReducesTheSecret := by
  intro s a
  refine ⟨fun hfin => ⟨keyred s.q[a].x, ?_, keyred_toNat _, fun j hj => byteAt_keyred _ hj⟩, fun hinf => ?_⟩
  · rw [exec, execAeskeyx, hfin, if_neg Bool.false_ne_true, State.finish_ok, State.complete_eq_completedWith]
    rfl
  · rw [exec, execAeskeyx, if_pos hinf, State.finish_error_eq]

end Sys2Proof.Machine
end

section
/-! SUPPORT. The transforms and their inverses cancel (spec/42_aes.md R193 to R196). -/

namespace Sys2Proof.Machine

section
variable (s : Block)

@[simp] theorem invSubBytes_subBytes : invSubBytes (subBytes s) = s :=
  block_ext _ _ fun i hi => by rw [byteAt_invSubBytes _ i hi, byteAt_subBytes _ i hi, isbox_sbox]

@[simp] theorem subBytes_invSubBytes : subBytes (invSubBytes s) = s :=
  block_ext _ _ fun i hi => by rw [byteAt_subBytes _ i hi, byteAt_invSubBytes _ i hi, sbox_isbox]

@[simp] theorem invShiftRows_shiftRows : invShiftRows (shiftRows s) = s :=
  block_ext_cell _ _ fun row hr col hc => by
    rw [cell_invShiftRows _ _ _ hr hc, cell_shiftRows _ _ _ hr (by omega),
      show ((col + 4 - row) % 4 + row) % 4 = col by omega]

@[simp] theorem shiftRows_invShiftRows : shiftRows (invShiftRows s) = s :=
  block_ext_cell _ _ fun row hr col hc => by
    rw [cell_shiftRows _ _ _ hr hc, cell_invShiftRows _ _ _ hr (by omega),
      show ((col + row) % 4 + 4 - row) % 4 = col by omega]

end

end Sys2Proof.Machine
end

section
/-! SUPPORT. The column products by `xtime`, and why InvMixColumns inverts MixColumns: MixColumns done four times changes
nothing, and InvMixColumns is MixColumns done three times (spec/42_aes.md R190, R196). -/

namespace Sys2Proof.Machine

section
variable (x : Byte)

@[simp] theorem gmul_01 : gmul 0x01#8 x = x := by simp [gmul, gmulLoop]

@[simp] theorem gmul_02 : gmul 0x02#8 x = xtime x := by simp [gmul, gmulLoop]

@[simp] theorem gmul_03 : gmul 0x03#8 x = xtime x ^^^ x := by simp [gmul, gmulLoop, BitVec.xor_comm]

@[simp] theorem gmul_09 : gmul 0x09#8 x = xtime (xtime (xtime x)) ^^^ x := by simp [gmul, gmulLoop, BitVec.xor_comm]

@[simp] theorem gmul_0b : gmul 0x0b#8 x = xtime (xtime (xtime x)) ^^^ xtime x ^^^ x :=
  calc gmul 0x0b#8 x = x ^^^ (xtime x ^^^ xtime (xtime (xtime x))) := by simp [gmul, gmulLoop]
    _ = _ := by ac_rfl

@[simp] theorem gmul_0d : gmul 0x0d#8 x = xtime (xtime (xtime x)) ^^^ xtime (xtime x) ^^^ x :=
  calc gmul 0x0d#8 x = x ^^^ (xtime (xtime x) ^^^ xtime (xtime (xtime x))) := by simp [gmul, gmulLoop]
    _ = _ := by ac_rfl

@[simp] theorem gmul_0e : gmul 0x0e#8 x = xtime (xtime (xtime x)) ^^^ xtime (xtime x) ^^^ xtime x :=
  calc gmul 0x0e#8 x = xtime x ^^^ (xtime (xtime x) ^^^ xtime (xtime (xtime x))) := by simp [gmul, gmulLoop]
    _ = _ := by ac_rfl

end

/-- One cell of MixColumns, from its own cell and the three below it, around the column's end (R196). -/
def mixCell (x0 x1 x2 x3 : Byte) : Byte := xtime x0 ^^^ (xtime x1 ^^^ x1) ^^^ x2 ^^^ x3

/-- One cell of InvMixColumns, from the same four cells (R196). -/
def invMixCell (x0 x1 x2 x3 : Byte) : Byte :=
  (xtime (xtime (xtime x0)) ^^^ xtime (xtime x0) ^^^ xtime x0) ^^^ (xtime (xtime (xtime x1)) ^^^ xtime x1 ^^^ x1) ^^^
    (xtime (xtime (xtime x2)) ^^^ xtime (xtime x2) ^^^ x2) ^^^ (xtime (xtime (xtime x3)) ^^^ x3)

/-- One cell of MixColumns done twice, from its own cell and the one two below it. -/
def mixTwiceCell (x0 x2 : Byte) : Byte := x0 ^^^ xtime (xtime (x0 ^^^ x2))

section
variable (x0 x1 x2 x3 : Byte)

theorem mixCell_mixCell :
    mixCell (mixCell x0 x1 x2 x3) (mixCell x1 x2 x3 x0) (mixCell x2 x3 x0 x1) (mixCell x3 x0 x1 x2) =
      mixTwiceCell x0 x2 := by
  simp only [mixCell, mixTwiceCell, xtime_xor]
  ac_nf
  simp only [xor_cancel_left]

theorem mixTwiceCell_mixTwiceCell : mixTwiceCell (mixTwiceCell x0 x2) (mixTwiceCell x2 x0) = x0 := by
  simp only [mixTwiceCell, xtime_xor]
  ac_nf
  simp only [BitVec.xor_self, BitVec.xor_zero]

theorem mixCell_mixTwiceCell :
    mixCell (mixTwiceCell x0 x2) (mixTwiceCell x1 x3) (mixTwiceCell x2 x0) (mixTwiceCell x3 x1) =
      invMixCell x0 x1 x2 x3 := by
  simp only [mixCell, mixTwiceCell, invMixCell, xtime_xor]
  ac_nf
  simp only [xor_cancel_left]

end

/-- The cell `n` below `row`, around the column's end. -/
def cellBelow (s : Block) (row col n : Nat) : Byte := cell s ((row + n) % 4) col

section
variable (s : Block) {row col : Nat} (n : Nat)

@[simp] theorem cellBelow_add_four : cellBelow s row col (n + 4) = cellBelow s row col n := by
  rw [cellBelow, ← Nat.add_assoc, Nat.add_mod_right, cellBelow]

theorem cellBelow_cellBelow (m : Nat) : cellBelow s ((row + n) % 4) col m = cellBelow s row col (n + m) := by
  rw [cellBelow, Nat.mod_add_mod, Nat.add_assoc, cellBelow]

theorem cellBelow_zero (hrow : row < 4) : cellBelow s row col 0 = cell s row col := by
  rw [cellBelow, Nat.add_zero, Nat.mod_eq_of_lt hrow]

/-- A sum over the four rows may start at any of its rows. -/
theorem xor_four_turned (f : Nat → Byte) (hrow : row < 4) :
    f 0 ^^^ f 1 ^^^ f 2 ^^^ f 3 =
      f ((row + 0) % 4) ^^^ f ((row + 1) % 4) ^^^ f ((row + 2) % 4) ^^^ f ((row + 3) % 4) := by
  interval_cases row
  · rfl
  all_goals
    simp only [Nat.reduceAdd, Nat.reduceMod]
    ac_rfl

/-- When each row of the matrix is the row above it turned by one, its coefficients go with the cells below the row. -/
theorem cell_mulColumns_of_turned {matrix : List (List Byte)} {coeff : Nat → Byte}
    (hturned : ∀ row < 4, ∀ n < 4, (matrix.getD row []).getD ((row + n) % 4) 0 = coeff n) (hrow : row < 4)
    (hcol : col < 4) :
    cell (mulColumns matrix s) row col =
      gmul (coeff 0) (cellBelow s row col 0) ^^^ gmul (coeff 1) (cellBelow s row col 1) ^^^
        gmul (coeff 2) (cellBelow s row col 2) ^^^ gmul (coeff 3) (cellBelow s row col 3) := by
  rw [cell_mulColumns _ s row col hrow hcol,
    xor_four_turned (fun n => gmul ((matrix.getD row []).getD n 0) (cell s n col)) hrow]
  simp only [hturned row hrow 0, hturned row hrow 1, hturned row hrow 2, hturned row hrow 3, Nat.reduceLT, cellBelow]

theorem cell_mixColumns (hrow : row < 4) (hcol : col < 4) :
    cell (mixColumns s) row col =
      mixCell (cellBelow s row col 0) (cellBelow s row col 1) (cellBelow s row col 2) (cellBelow s row col 3) := by
  rw [mixColumns, cell_mulColumns_of_turned s (coeff := fun n => [2, 3, 1, 1].getD n 0) (by decide) hrow hcol]
  simp [mixCell]

theorem cell_invMixColumns (hrow : row < 4) (hcol : col < 4) :
    cell (invMixColumns s) row col =
      invMixCell (cellBelow s row col 0) (cellBelow s row col 1) (cellBelow s row col 2) (cellBelow s row col 3) := by
  rw [invMixColumns,
    cell_mulColumns_of_turned s (coeff := fun n => [0x0e, 0x0b, 0x0d, 0x09].getD n 0) (by decide) hrow hcol]
  simp [invMixCell]

theorem cellBelow_mixColumns (hcol : col < 4) :
    cellBelow (mixColumns s) row col n =
      mixCell (cellBelow s row col n) (cellBelow s row col (n + 1)) (cellBelow s row col (n + 2))
        (cellBelow s row col (n + 3)) := by
  rw [cellBelow, cell_mixColumns s (Nat.mod_lt _ (by decide)) hcol]
  simp only [cellBelow_cellBelow, Nat.add_zero]

theorem cellBelow_mixColumns_twice (hcol : col < 4) :
    cellBelow (mixColumns (mixColumns s)) row col n =
      mixTwiceCell (cellBelow s row col n) (cellBelow s row col (n + 2)) := by
  rw [← mixCell_mixCell _ (cellBelow s row col (n + 1)) _ (cellBelow s row col (n + 3))]
  simp [cellBelow_mixColumns, hcol, Nat.add_assoc]

/-- MixColumns has order four. -/
theorem mixColumns_four : mixColumns (mixColumns (mixColumns (mixColumns s))) = s :=
  block_ext_cell _ _ fun row hrow col hcol => by
    rw [← cellBelow_zero _ hrow, cellBelow_mixColumns_twice _ _ hcol, cellBelow_mixColumns_twice _ _ hcol,
      cellBelow_mixColumns_twice _ _ hcol, Nat.add_assoc, cellBelow_add_four, mixTwiceCell_mixTwiceCell,
      cellBelow_zero _ hrow]

theorem invMixColumns_eq_mixColumns_thrice : invMixColumns s = mixColumns (mixColumns (mixColumns s)) :=
  block_ext_cell _ _ fun row hrow col hcol => by
    rw [cell_invMixColumns s hrow hcol, cell_mixColumns _ hrow hcol, ← mixCell_mixTwiceCell]
    simp [cellBelow_mixColumns_twice, hcol]

@[simp] theorem invMixColumns_mixColumns : invMixColumns (mixColumns s) = s := by
  rw [invMixColumns_eq_mixColumns_thrice, mixColumns_four]

@[simp] theorem mixColumns_invMixColumns : mixColumns (invMixColumns s) = s := by
  rw [invMixColumns_eq_mixColumns_thrice, mixColumns_four]

end

end Sys2Proof.Machine
end

section
/-! SUPPORT. The S-box by its formula: the inverse in GF(2^8), then the affine map (spec/42_aes.md R192). -/

namespace Sys2Proof.Machine

/-- The affine map of R192: `b` added to itself turned by 4, 5, 6 and 7, and to `c = 0x63`. -/
def affine (b : Byte) : Byte :=
  b ^^^ b.rotateRight 4 ^^^ b.rotateRight 5 ^^^ b.rotateRight 6 ^^^ b.rotateRight 7 ^^^ 0x63#8

/-- The byte that the affine map takes to `b`. -/
def affinePreimage (b : Byte) : Byte := b.rotateRight 2 ^^^ b.rotateRight 5 ^^^ b.rotateRight 7 ^^^ 0x05#8

theorem affine_affinePreimage : ∀ b : Byte, affine (affinePreimage b) = b := by decide

/-- The S-box entry of a byte other than 0 is the affine image of the byte's inverse (R192). -/
theorem gmul_affinePreimage_sbox : ∀ u : Byte, u ≠ 0 → gmul u (affinePreimage (sbox u)) = 1 := by decide

theorem affinePreimage_sbox_zero : affinePreimage (sbox 0) = 0 := by decide

theorem getLsbD_rotateRight_byte (b : Byte) {n k : Nat} (hn : n < 8) (hk : k < 8) :
    (b.rotateRight k).getLsbD n = b.getLsbD ((n + k) % 8) := by
  rw [BitVec.getLsbD_rotateRight, Nat.mod_eq_of_lt hk, decide_eq_true hn, Bool.true_and]
  by_cases hlow : n < 8 - k
  · rw [decide_eq_true hlow, cond_true, show (n + k) % 8 = k + n by omega]
  · rw [decide_eq_false hlow, cond_false, show (n + k) % 8 = n - (8 - k) by omega]

theorem getLsbD_affine (b : Byte) {n : Nat} (hn : n < 8) :
    (affine b).getLsbD n =
      (b.getLsbD n ^^ b.getLsbD ((n + 4) % 8) ^^ b.getLsbD ((n + 5) % 8) ^^ b.getLsbD ((n + 6) % 8) ^^
        b.getLsbD ((n + 7) % 8) ^^ (0x63#8).getLsbD n) := by
  simp only [affine, BitVec.getLsbD_xor, getLsbD_rotateRight_byte _ hn, Nat.reduceLT]

/-- Settles O36: the inverse is read back off the S-box entry. -/
theorem subbytesIsAffineOfInverse : Obligations.SubbytesIsAffineOfInverse := by
  refine fun s => ⟨_, exec_subbytes s, fun j hj => ⟨affinePreimage (sbox (byteAt s.block j)), ?_, fun n hn => ?_⟩⟩
  · split
    · next hzero => rw [hzero, affinePreimage_sbox_zero]
    · next hne => exact gmul_affinePreimage_sbox _ hne
  · rw [byteAt_subBytes _ j hj, ← getLsbD_affine _ hn, affine_affinePreimage]

/-- Settles O37: the tables of R192 and R193 invert each other. -/
theorem invsubbytesInvertsTheSbox : Obligations.InvsubbytesInvertsTheSbox :=
  fun s => ⟨_, exec_invsubbytes s, fun j hj => by rw [byteAt_invSubBytes _ j hj, sbox_isbox]⟩

end Sys2Proof.Machine
end

section
/-! SUPPORT. The row shifts and the column products on STATE (spec/42_aes.md R195, R196). -/

namespace Sys2Proof.Machine

/-- Settles O38: the right rotation moves the cell at `col` to `col + row`, around the row's end. -/
theorem rowShiftsRotateRows : Obligations.RowShiftsRotateRows := by
  refine fun s => ⟨_, _, exec_shiftrows s, exec_invshiftrows s, fun row hrow col hcol =>
    ⟨cell_shiftRows s.block row col hrow hcol, ?_⟩⟩
  have hback := cell_invShiftRows s.block row ((col + row) % 4) hrow (Nat.mod_lt _ (by decide))
  rwa [show ((col + row) % 4 + 4 - row) % 4 = col by omega] at hback

/-- Settles O39: the formula is `mixCell` of the cell and those below it. -/
theorem mixcolumnsFormula : Obligations.MixcolumnsFormula :=
  fun s => ⟨_, exec_mixcolumns s, fun _ hrow _ hcol => cell_mixColumns s.block hrow hcol⟩

/-- Settles O40: the formula is `invMixCell` of the cell and those below it. -/
theorem invmixcolumnsFormula : Obligations.InvmixcolumnsFormula :=
  fun s => ⟨_, exec_invmixcolumns s, fun _ hrow _ hcol => cell_invMixColumns s.block hrow hcol⟩

/-- Settles O41: on blocks, each of the six pairs cancels. -/
theorem transformsAndInversesCancel : Obligations.TransformsAndInversesCancel := by
  intro s
  refine ⟨runCommands_undo (exec_subbytes s) ?_, runCommands_undo (exec_invsubbytes s) ?_,
    runCommands_undo (exec_shiftrows s) ?_, runCommands_undo (exec_invshiftrows s) ?_,
    runCommands_undo (exec_mixcolumns s) ?_, runCommands_undo (exec_invmixcolumns s) ?_⟩
  all_goals simp

end Sys2Proof.Machine
end

section
/-! SUPPORT. The inverse cipher undoes the cipher, round by round from the last (spec/42_aes.md R200, R201). -/

namespace Sys2Proof.Machine

/-- Rounds done along a list and undone from its end: a round `forth` and the round `back` that undoes it meet in a value
seen through `view`. -/
theorem foldl_reverse_undo {α β γ : Type} {forth : α → γ → α} {back : β → γ → β} {view : α → β}
    (hundo : ∀ a r, back (view (forth a r)) r = view a) (rounds : List γ) (a : α) :
    rounds.reverse.foldl back (view (rounds.foldl forth a)) = view a := by
  induction rounds generalizing a with
  | nil => rfl
  | cons r rounds ih =>
    simp only [List.reverse_cons, List.foldl_append, List.foldl_cons, List.foldl_nil, ih, hundo]

section
variable (rk : Vector Block 11) (x : Block)

/-- A round of the inverse cipher meets the cipher's between ShiftRows and MixColumns. -/
theorem aesDec_aesEnc : aesDec rk (aesEnc rk x) = x := by
  have hrounds := foldl_reverse_undo (view := fun s => shiftRows (subBytes s))
    (forth := fun s (r : Fin 11) => addRoundKey (mixColumns (shiftRows (subBytes s))) rk[r])
    (back := fun s r => invMixColumns (addRoundKey (invSubBytes (invShiftRows s)) rk[r]))
    (by simp) middleRounds (addRoundKey x rk[0])
  simp only [aesDec, aesEnc, addRoundKey_twice, hrounds, invShiftRows_shiftRows, invSubBytes_subBytes]

/-- A round of the cipher meets the inverse cipher's between InvSubBytes and AddRoundKey. -/
theorem aesEnc_aesDec : aesEnc rk (aesDec rk x) = x := by
  have hrounds := foldl_reverse_undo (view := fun s => invSubBytes (invShiftRows s))
    (forth := fun s (r : Fin 11) => invMixColumns (addRoundKey (invSubBytes (invShiftRows s)) rk[r]))
    (back := fun s r => addRoundKey (mixColumns (shiftRows (subBytes s))) rk[r])
    (by simp) middleRounds.reverse (addRoundKey x rk[10])
  rw [List.reverse_reverse] at hrounds
  simp only [aesDec, aesEnc, addRoundKey_twice, hrounds, subBytes_invSubBytes, shiftRows_invShiftRows]

end

/-- Settles O35: the two ciphers are inverse on blocks, and neither command writes RK. -/
theorem aesdecUndoesAesenc : Obligations.AesdecUndoesAesenc := by
  intro s hrkv
  refine ⟨runCommands_undo (exec_aesenc hrkv) ?_, runCommands_undo (exec_aesdec hrkv) ?_⟩
  · rw [exec_aesdec (s := s.withBlock _) hrkv, s.withBlock_rk, s.withBlock_block, aesDec_aesEnc]
  · rw [exec_aesenc (s := s.withBlock _) hrkv, s.withBlock_rk, s.withBlock_block, aesEnc_aesDec]

end Sys2Proof.Machine
end

section
/-! SUPPORT. The key schedule word by word, then byte by byte (spec/42_aes.md R198, R199). -/

namespace Sys2Proof.Machine

section
variable (k : Block)

/-- Word `i` of the schedule, read from its first `n + 4` words, which `expandWords` lists with the newest first. -/
def scheduleWord (n i : Nat) : Word := (expandWords k n).getD (n + 3 - i) 0

/-- One more word: the oldest of the last four, the newest mixed in. -/
theorem expandWords_succ (n : Nat) :
    expandWords k (n + 1) =
      (scheduleWord k n n ^^^ scheduleMix (n + 4) (scheduleWord k n (n + 3))) :: expandWords k n := by
  have hlength := expandWords_length k n
  simp only [scheduleWord, Nat.add_sub_cancel_left, Nat.sub_self]
  rw [expandWords]
  match hwords : expandWords k n with
  | w1 :: w2 :: w3 :: w4 :: older => rfl
  | [] | [_] | [_, _] | [_, _, _] => simp [hwords] at hlength

variable {k}

theorem scheduleWord_succ (n : Nat) :
    scheduleWord k (n + 1) (n + 4) = scheduleWord k n n ^^^ scheduleMix (n + 4) (scheduleWord k n (n + 3)) := by
  rw [scheduleWord, expandWords_succ, Nat.sub_self, List.getD_cons_zero]

/-- A word of the schedule does not depend on how many words follow it. -/
theorem scheduleWord_of_le {n m i : Nat} (hnm : n ≤ m) (hi : i < n + 4) : scheduleWord k m i = scheduleWord k n i := by
  induction m, hnm using Nat.le_induction with
  | base => rfl
  | succ m hnm ih =>
    rw [← ih, scheduleWord, expandWords_succ, show m + 1 + 3 - i = m + 3 - i + 1 by omega, List.getD_cons_succ,
      scheduleWord]

theorem keyWords_getD {i : Nat} (hi : i < 44) : (keyWords k).getD i 0 = scheduleWord k 40 i := by
  rw [keyWords, List.getD_reverse _ (by rwa [expandWords_length]), expandWords_length, scheduleWord]

/-- The recurrence of R198 on the words. -/
theorem scheduleWord_recurrence {i : Nat} (h4 : 4 ≤ i) (h44 : i < 44) :
    scheduleWord k 40 i = scheduleWord k 40 (i - 4) ^^^ scheduleMix i (scheduleWord k 40 (i - 1)) := by
  obtain ⟨n, rfl⟩ := Nat.exists_eq_add_of_le' h4
  rw [scheduleWord_of_le (n := n + 1) (by omega) (by omega), scheduleWord_succ,
    scheduleWord_of_le (m := 40) (i := n + 4 - 4) (n := n) (by omega) (by omega),
    scheduleWord_of_le (m := 40) (i := n + 4 - 1) (n := n) (by omega) (by omega)]
  rfl

/-- The first four words are those of the key (R198). -/
theorem scheduleWord_of_lt_four {i : Nat} (hi : i < 4) : scheduleWord k 40 i = getWord k i := by
  rw [scheduleWord_of_le (n := 0) (by omega) (by omega)]
  interval_cases i
  all_goals rfl

theorem byteAt_getWord (i : Nat) {m : Nat} (hm : m < 4) : byteAt (getWord k i) m = byteAt k (4 * i + m) := by
  apply BitVec.eq_of_getLsbD_eq
  intro n hn
  have hbit : 8 * m + n < 32 := by omega
  simp [byteAt, getWord, hn, hbit, Nat.mul_add, ← Nat.mul_assoc, Nat.add_assoc]

/-- Byte `m` of word `i`, in its round key (R198). -/
theorem byteAt_keyExpansion {i m : Nat} (hi : i < 44) (hm : m < 4) :
    byteAt ((keyExpansion k).toList.getD (i / 4) 0) (4 * (i % 4) + m) = byteAt (scheduleWord k 40 i) m := by
  have hround : i / 4 < 11 := by omega
  have hword : 4 * (i / 4) + (4 * (i % 4) + m) / 4 = i := by omega
  have hbyte : (4 * (i % 4) + m) % 4 = m := by omega
  have hkey : (keyExpansion k).toList.getD (i / 4) 0 =
      mkBlock fun n => byteAt ((keyWords k).getD (4 * (i / 4) + n / 4) 0) (n % 4) := by
    simp [keyExpansion, hround]
  rw [hkey, byteAt_mkBlock _ _ (by omega), hword, hbyte, keyWords_getD hi]

theorem byteAt_rotWord (w : Word) {m : Nat} (hm : m < 4) : byteAt (rotWord w) m = byteAt w ((m + 1) % 4) := by
  rw [rotWord, byteAt_mkQuad]
  interval_cases m
  all_goals rfl

theorem byteAt_subWord (w : Word) {m : Nat} (hm : m < 4) : byteAt (subWord w) m = sbox (byteAt w m) := by
  rw [subWord, byteAt_mkQuad]
  interval_cases m
  all_goals rfl

/-- The round constants are the powers of 2 in GF(2^8) (R199). -/
theorem rcon_eq_xtime_iterate : ∀ j < 11, 1 ≤ j → rcon j = xtime^[j - 1] 1 := by decide

theorem byteAt_rcon (j : Nat) {m : Nat} (hm : m < 4) :
    byteAt (mkQuad (rcon j) 0 0 0) m = if m = 0 then rcon j else 0 := by
  rw [byteAt_mkQuad]
  interval_cases m
  all_goals rfl

/-- What a word takes from the word before it, byte by byte (R198). -/
theorem byteAt_scheduleMix (w : Word) {i m : Nat} (h4 : 4 ≤ i) (h44 : i < 44) (hm : m < 4) :
    byteAt (scheduleMix i w) m =
      if i % 4 = 0 then sbox (byteAt w ((m + 1) % 4)) ^^^ (if m = 0 then xtime^[i / 4 - 1] 1 else 0)
      else byteAt w m := by
  rw [scheduleMix, ← rcon_eq_xtime_iterate (i / 4) (by omega) (by omega), ← byteAt_rcon _ hm, ← byteAt_rotWord _ hm,
    ← byteAt_subWord _ hm, ← byteAt_xor]
  split
  · rfl
  · rfl

end

/-- Settles O32: a byte of the round keys is a byte of its word, and the words follow the recurrence. -/
theorem keyexpFollowsTheRecurrence : Obligations.KeyexpFollowsTheRecurrence := by
  refine fun s => ⟨keyExpansion s.key, s.finish_writeSchedule _, ?_⟩
  intro w
  have hw : ∀ {i m}, i < 44 → m < 4 → w i m = byteAt (scheduleWord s.key 40 i) m := byteAt_keyExpansion
  refine ⟨fun i hi m hm => ?_, fun i h4 h44 m hm => ?_⟩
  · rw [hw (by omega) hm, scheduleWord_of_lt_four hi, byteAt_getWord _ hm]
  · rw [hw h44 hm, hw (by omega) hm, hw (by omega) hm, hw (by omega) (Nat.mod_lt _ (by decide)),
      scheduleWord_recurrence h4 h44, byteAt_xor, byteAt_scheduleMix _ h4 h44 hm]

end Sys2Proof.Machine
end

section
/-! SUPPORT. The chaining of CBC mode block by block (spec/43_cbc.md R242, R243): which block a byte sequence holds at an index,
and each block of the two chains from the block before it. -/

namespace Sys2Proof.Machine

theorem mkBlock_congr {f g : Nat → Byte} (h : ∀ k < 16, f k = g k) : mkBlock f = mkBlock g :=
  block_ext _ _ fun k hk => by rw [byteAt_mkBlock f k hk, byteAt_mkBlock g k hk, h k hk]

@[simp] theorem mkBlock_byteAt (v : Block) : mkBlock (byteAt v) = v :=
  block_ext _ _ fun k hk => byteAt_mkBlock (byteAt v) k hk

theorem reg_take (bs : List Byte) : reg (bs.take 16) = mkBlock fun k => bs.getD k 0 := by
  apply block_ext
  intro k hk
  rw [byteAt_reg _ (List.length_take_le 16 bs), byteAt_mkBlock _ k hk]
  simp [List.getD, hk]

/-- Block `j` of a byte sequence is its bytes from `16 * j` on. -/
theorem toBlocks_getD (bs : List Byte) {n j : Nat} (hj : j < n) :
    (toBlocks n bs).getD j 0 = mkBlock fun k => bs.getD (16 * j + k) 0 := by
  induction n generalizing bs j with
  | zero => omega
  | succ n ih =>
    cases j with
    | zero => simp [toBlocks, reg_take]
    | succ j =>
      rw [toBlocks, List.getD_cons_succ, ih _ (by omega)]
      refine mkBlock_congr fun k _ => ?_
      simp only [List.getD, List.getElem?_drop]
      congr 2
      omega

/-- Byte `k` of the bytes of blocks is byte `k % 16` of block `k / 16`. -/
theorem ofBlocks_getD (bs : List Block) {k : Nat} (hk : k < 16 * bs.length) :
    (ofBlocks bs).getD k 0 = byteAt (bs.getD (k / 16) 0) (k % 16) := by
  induction bs generalizing k with
  | nil => simp at hk
  | cons b bs ih =>
    have hcons : ofBlocks (b :: bs) = blk b ++ ofBlocks bs := List.flatMap_cons
    rw [List.length_cons] at hk
    rw [hcons]
    by_cases hfirst : k < 16
    · rw [List.getD_append _ _ _ _ (by simpa using hfirst), blk, bytesOf_getD 16 b k hfirst, Nat.div_eq_of_lt hfirst,
        Nat.mod_eq_of_lt hfirst, List.getD_cons_zero]
    · rw [List.getD_append_right _ _ _ _ (by simpa using hfirst), blk_length, ih (by omega),
        show k / 16 = (k - 16) / 16 + 1 by omega, List.getD_cons_succ, show (k - 16) % 16 = k % 16 by omega]

section
variable (rk : Vector Block 11) (prev : Block) (bs : List Block)

/-- A ciphertext block is the cipher of its plaintext block XOR the block before it, the first one's being `prev` (R242). -/
theorem cbcEncBlocks_getD {j : Nat} (hj : j < bs.length) :
    (cbcEncBlocks rk prev bs).getD j 0 = aesEnc rk (bs.getD j 0 ^^^ (prev :: cbcEncBlocks rk prev bs).getD j 0) := by
  induction bs generalizing prev j with
  | nil => simp at hj
  | cons b bs ih =>
    cases j with
    | zero => rfl
    | succ j => exact ih _ (Nat.lt_of_succ_lt_succ hj)

/-- A plaintext block is the inverse cipher of its ciphertext block XOR the ciphertext block before it (R243). -/
theorem cbcDecBlocks_getD {j : Nat} (hj : j < bs.length) :
    (cbcDecBlocks rk prev bs).getD j 0 = aesDec rk (bs.getD j 0) ^^^ (prev :: bs).getD j 0 := by
  induction bs generalizing prev j with
  | nil => simp at hj
  | cons b bs ih =>
    cases j with
    | zero => rfl
    | succ j => exact ih _ (Nat.lt_of_succ_lt_succ hj)

end

/-- The IV and the ciphertext blocks, in the order CBCENC writes them (R242). -/
def cbcEncChain (rk : Vector Block 11) (mp : List Byte) (iv : Block) : List Block :=
  iv :: cbcEncBlocks rk iv (toBlocks (mp.length / 16) mp)

theorem cbcEnc_eq_ofBlocks (rk : Vector Block 11) (mp : List Byte) (iv : Block) :
    cbcEnc rk mp iv = ofBlocks (cbcEncChain rk mp iv) := List.flatMap_cons.symm

theorem cbcEncChain_length (rk : Vector Block 11) (mp : List Byte) (iv : Block) :
    (cbcEncChain rk mp iv).length = mp.length / 16 + 1 := by simp [cbcEncChain]

/-- Each block of the chain from the one before it and the block of the message (R242). -/
theorem cbcEncChain_succ (rk : Vector Block 11) (mp : List Byte) (iv : Block) {j : Nat} (hj : j < mp.length / 16) :
    (cbcEncChain rk mp iv).getD (j + 1) 0 =
      aesEnc rk (mkBlock (fun k => mp.getD (16 * j + k) 0) ^^^ (cbcEncChain rk mp iv).getD j 0) := by
  rw [← toBlocks_getD mp hj]
  exact cbcEncBlocks_getD rk iv _ (by simpa using hj)

/-- Byte `k` of the decrypted text (R243). -/
theorem cbcDec_getD (rk : Vector Block 11) (pl : List Byte) {k : Nat} (hk : k < 16 * (pl.length / 16 - 1)) :
    (cbcDec rk pl).getD k 0 =
      byteAt (aesDec rk (mkBlock fun i => pl.getD (16 * (k / 16 + 1) + i) 0) ^^^
        mkBlock fun i => pl.getD (16 * (k / 16) + i) 0) (k % 16) := by
  have hj : k / 16 < pl.length / 16 - 1 := by omega
  have hpayload := toBlocks_getD pl (n := pl.length / 16 - 1 + 1) (j := k / 16 + 1) (by omega)
  have hbefore := toBlocks_getD pl (n := pl.length / 16 - 1 + 1) (j := k / 16) (by omega)
  rw [cbcDec, ofBlocks_getD _ (by simpa using hk), cbcDecBlocks_getD _ _ _ (by simpa using hj), ← hpayload, ← hbefore]
  rfl

end Sys2Proof.Machine
end

section
/-! SUPPORT. `unpad` of a text given by its bytes (spec/43_cbc.md R241): whether its padding is stripped, and what is left. -/

namespace Sys2Proof.Machine

/-- The last `n` of the `size` bytes of a text all are `n`, `n` its last byte from 1 to 16 (R241). -/
def paddingValid (text : Nat → Byte) (size : Nat) : Bool :=
  let n := (text (size - 1)).toNat
  decide (1 ≤ n ∧ n ≤ 16 ∧ ∀ k < n, (text (size - 1 - k)).toNat = n)

/-- How many bytes of a text `unpad` leaves (R241). -/
def unpaddedSize (text : Nat → Byte) (size : Nat) : Nat :=
  if paddingValid text size then size - (text (size - 1)).toNat else size

theorem unpaddedSize_le (text : Nat → Byte) (size : Nat) : unpaddedSize text size ≤ size := by
  unfold unpaddedSize
  split
  · exact Nat.sub_le _ _
  · exact Nat.le_refl size

/-- The last `n` entries of a list, counted from its end. -/
theorem forall_mem_drop_iff {α : Type} (p : α → Prop) (l : List α) (default : α) {n : Nat} (hn : n ≤ l.length) :
    (∀ x ∈ l.drop (l.length - n), p x) ↔ ∀ k < n, p (l.getD (l.length - 1 - k) default) := by
  simp only [List.mem_drop_iff_getElem]
  constructor
  · intro h k hk
    rw [List.getD_eq_getElem _ _ (by omega)]
    exact h _ ⟨n - 1 - k, by omega, by congr 1; omega⟩
  · rintro h _ ⟨i, hi, rfl⟩
    have hpos : l.length - 1 - (n - 1 - i) = l.length - n + i := by omega
    have hlast := h (n - 1 - i) (by omega)
    rwa [hpos, List.getD_eq_getElem _ _ (by omega)] at hlast

variable {text : Nat → Byte} {d : List Byte}

/-- The check of `unpad` on the entries of the list (R241). -/
theorem paddingValid_iff (h16 : 16 ≤ d.length) (htext : ∀ k < d.length, d.getD k 0 = text k) :
    paddingValid text d.length = true ↔
      1 ≤ (text (d.length - 1)).toNat ∧ (text (d.length - 1)).toNat ≤ 16 ∧
        ∀ x ∈ d.drop (d.length - (text (d.length - 1)).toNat), x.toNat = (text (d.length - 1)).toNat := by
  simp only [paddingValid, decide_eq_true_eq]
  refine and_congr_right fun _ => and_congr_right fun hn => ?_
  rw [forall_mem_drop_iff _ d 0 (hn.trans h16)]
  refine forall₂_congr fun k _ => ?_
  rw [htext _ (by omega)]

theorem unpad_eq_take (h16 : 16 ≤ d.length) (htext : ∀ k < d.length, d.getD k 0 = text k) :
    unpad d = (d.take (unpaddedSize text d.length), paddingValid text d.length) := by
  have hcases := unpad_cases d
  rw [htext (d.length - 1) (by omega)] at hcases
  obtain ⟨hlow, hhigh, hall, hstripped⟩ | ⟨hinvalid, hwhole⟩ := hcases
  · have hvalid := (paddingValid_iff h16 htext).2 ⟨hlow, hhigh, hall⟩
    rw [hstripped, unpaddedSize, hvalid, if_pos rfl]
  · have hvalid : paddingValid text d.length = false :=
      Bool.eq_false_iff.2 fun h => hinvalid ((paddingValid_iff h16 htext).1 h)
    rw [hwhole, unpaddedSize, hvalid, if_neg Bool.false_ne_true, List.take_length]

end Sys2Proof.Machine
end

section
/-! SUPPORT. The CBC commands on the state (spec/43_cbc.md R244, R245, R250, R251): the payload they read from IBUF, the output
they write to OBUF, and their length errors. -/

namespace Sys2Proof.Machine

/-- One byte after an output is written: the output's in `OBUF[0..OLEN)`, as before elsewhere (R246). -/
theorem State.byteAt_writeOutput (s : State) (out : List Byte) (x : Nat) :
    (s.writeOutput out).byteAt x =
      if 0x8000 ≤ x ∧ x < 0x8000 + out.length then out.getD (x - 0x8000) 0 else s.byteAt x :=
  s.byteAt_writeBytes obufBase out x

theorem State.byteAt_writeOutput_outside (s : State) (out : List Byte) {x : Nat}
    (hx : x < 0x8000 ∨ 0x8000 + out.length ≤ x) : (s.writeOutput out).byteAt x = s.byteAt x := by
  rw [s.byteAt_writeOutput out, if_neg (by omega)]

theorem State.byteAt_writeOutput_inside (s : State) (out : List Byte) {k : Nat} (hk : k < out.length) :
    (s.writeOutput out).byteAt (0x8000 + k) = out.getD k 0 := by
  rw [s.byteAt_writeOutput out, if_pos (by omega), Nat.add_sub_cancel_left]

@[simp] theorem State.writeOutput_nextDraw (s : State) (out : List Byte) : (s.writeOutput out).nextDraw = s.nextDraw := by
  rw [State.nextDraw, State.writeOutput_ivSupply, State.writeOutput_drawCount, State.nextDraw]

/-- An output, the draw and a completion write OLEN, IV, the draws, STATUS and the buffers (R246, R250). -/
theorem State.encrypt_frame (s : State) (out : List Byte) (code : ErrCode) :
    { (s.writeOutput out).takeDraw.completedWith code with mem := s.mem } =
      { s with olen := BitVec.ofNat 32 out.length, iv := s.nextDraw, ivSupply := s.ivSupply.tail
               drawCount := s.drawCount + 1, status := s.status.completed code } := by
  rw [State.completedWith, State.takeDraw, State.writeOutput_nextDraw]
  rfl

/-- An output and a completion write OLEN, STATUS and the buffers (R246, R251). -/
theorem State.decrypt_frame (s : State) (out : List Byte) (st : Status) :
    { s.writeOutput out with status := st, mem := s.mem } =
      { s with olen := BitVec.ofNat 32 out.length, status := st } := rfl

theorem State.takeDraw_completedWith_byteAt (s : State) (code : ErrCode) :
    (s.takeDraw.completedWith code).byteAt = s.byteAt := rfl

theorem State.takeDraw_completedWith_blockAt (s : State) (code : ErrCode) :
    (s.takeDraw.completedWith code).blockAt = s.blockAt := rfl

theorem State.withStatus_byteAt (s : State) (st : Status) : { s with status := st }.byteAt = s.byteAt := rfl

/-- Blocks written to OBUF are read from it. -/
theorem State.blockAt_writeOutput_ofBlocks (s : State) (bs : List Block) {j : Nat} (hj : j < bs.length) :
    (s.writeOutput (ofBlocks bs)).blockAt (0x8000 + 16 * j) = bs.getD j 0 := by
  rw [← mkBlock_byteAt (bs.getD j 0)]
  refine mkBlock_congr fun k hk => ?_
  rw [Nat.add_assoc, s.byteAt_writeOutput_inside _ (by rw [ofBlocks_length]; omega), ofBlocks_getD _ (by omega),
    show (16 * j + k) / 16 = j by omega, show (16 * j + k) % 16 = k by omega]

/-- A block of the bytes read is a block of the memory. -/
theorem State.mkBlock_readBytes (s : State) (addr : Nat) {n m : Nat} (h : m + 16 ≤ n) :
    mkBlock (fun k => (s.readBytes addr n).getD (m + k) 0) = s.blockAt (addr + m) :=
  mkBlock_congr fun k hk => by rw [s.readBytes_getD addr n _ (by omega), Nat.add_assoc]

/-- Byte `k` of the padded message in IBUF (R240). -/
def State.paddedByte (s : State) (k : Nat) : Byte :=
  if k < s.ilen.toNat then s.byteAt (0x4000 + k) else BitVec.ofNat 8 (16 - s.ilen.toNat % 16)

theorem State.pad_readBytes_getD (s : State) {k : Nat} (hk : k < 16 * (s.ilen.toNat / 16 + 1)) :
    (pad (s.readBytes 0x4000 s.ilen.toNat)).getD k 0 = s.paddedByte k := by
  rw [pad_getD _ k (by rwa [s.readBytes_length]), s.readBytes_length, State.paddedByte]
  split
  case isTrue hmessage => exact s.readBytes_getD 0x4000 _ k hmessage
  case isFalse => rfl

/-- The blocks CBCENC writes to OBUF: the IV and the ciphertext of the padded message in IBUF (R242, R250). -/
def State.encryptedBlocks (s : State) : List Block :=
  cbcEncChain s.rk (pad (s.readBytes 0x4000 s.ilen.toNat)) s.nextDraw

@[simp] theorem State.encryptedBlocks_length (s : State) : s.encryptedBlocks.length = s.ilen.toNat / 16 + 2 := by
  rw [State.encryptedBlocks, cbcEncChain_length, pad_length, s.readBytes_length]
  omega

theorem State.encryptedBlocks_zero (s : State) : s.encryptedBlocks.getD 0 0 = s.nextDraw := rfl

theorem State.encryptedBlocks_succ (s : State) {j : Nat} (hj : j < s.ilen.toNat / 16 + 1) :
    s.encryptedBlocks.getD (j + 1) 0 =
      aesEnc s.rk (mkBlock (fun k => s.paddedByte (16 * j + k)) ^^^ s.encryptedBlocks.getD j 0) := by
  have hpadded : mkBlock (fun k => (pad (s.readBytes 0x4000 s.ilen.toNat)).getD (16 * j + k) 0) =
      mkBlock fun k => s.paddedByte (16 * j + k) := mkBlock_congr fun k hk => s.pad_readBytes_getD (by omega)
  rw [← hpadded]
  exact cbcEncChain_succ s.rk _ s.nextDraw (by rw [pad_length, s.readBytes_length]; omega)

/-- Byte `k` of the decrypted payload in IBUF (R243). -/
def State.decryptedByte (s : State) (k : Nat) : Byte :=
  Machine.byteAt (aesDec s.rk (s.blockAt (0x4010 + 16 * (k / 16))) ^^^ s.blockAt (0x4000 + 16 * (k / 16))) (k % 16)

theorem State.cbcDec_readBytes_length (s : State) (hblocks : s.ilen.toNat % 16 = 0) :
    (cbcDec s.rk (s.readBytes 0x4000 s.ilen.toNat)).length = s.ilen.toNat - 16 := by
  rw [cbcDec_length, s.readBytes_length]
  omega

theorem State.cbcDec_readBytes_getD (s : State) {k : Nat} (hk : k < s.ilen.toNat - 16)
    (hblocks : s.ilen.toNat % 16 = 0) :
    (cbcDec s.rk (s.readBytes 0x4000 s.ilen.toNat)).getD k 0 = s.decryptedByte k := by
  rw [cbcDec_getD _ _ (by rw [s.readBytes_length]; omega), s.mkBlock_readBytes 0x4000 (by omega),
    s.mkBlock_readBytes 0x4000 (by omega), State.decryptedByte,
    show 0x4000 + 16 * (k / 16 + 1) = 0x4010 + 16 * (k / 16) by omega]

/-- The message CBCDEC writes to OBUF: what `unpad` leaves of the decrypted payload (R251). -/
def State.decryptedMessage (s : State) : List Byte :=
  (cbcDec s.rk (s.readBytes 0x4000 s.ilen.toNat)).take (unpaddedSize s.decryptedByte (s.ilen.toNat - 16))

theorem State.decryptedMessage_length (s : State) (hblocks : s.ilen.toNat % 16 = 0) :
    s.decryptedMessage.length = unpaddedSize s.decryptedByte (s.ilen.toNat - 16) := by
  rw [State.decryptedMessage, List.length_take, s.cbcDec_readBytes_length hblocks]
  exact Nat.min_eq_left (unpaddedSize_le _ _)

theorem State.decryptedMessage_getD (s : State) (hblocks : s.ilen.toNat % 16 = 0) {k : Nat}
    (hk : k < unpaddedSize s.decryptedByte (s.ilen.toNat - 16)) : s.decryptedMessage.getD k 0 = s.decryptedByte k := by
  rw [← s.cbcDec_readBytes_getD (hk.trans_le (unpaddedSize_le _ _)) hblocks]
  simp [State.decryptedMessage, List.getD, hk]

theorem State.unpad_cbcDec_readBytes (s : State) (hblocks : s.ilen.toNat % 16 = 0) (hlow : 32 ≤ s.ilen.toNat) :
    unpad (cbcDec s.rk (s.readBytes 0x4000 s.ilen.toNat)) =
      (s.decryptedMessage, paddingValid s.decryptedByte (s.ilen.toNat - 16)) := by
  have hsize := s.cbcDec_readBytes_length hblocks
  rw [State.decryptedMessage, ← hsize]
  exact unpad_eq_take (by omega) fun k hk => s.cbcDec_readBytes_getD (by omega) hblocks

section
variable {s : State} (hrkv : s.status.rkv = true)
include hrkv

/-- CBCENC on a length that fits writes the IV and the chained blocks, and takes the draw (R250). -/
theorem exec_cbcenc (hfits : s.ilen.toNat ≤ s.bufBytes) (hout : 16 * (s.ilen.toNat / 16 + 2) ≤ s.bufBytes) :
    exec .cbcenc s = .next ((s.writeOutput (ofBlocks s.encryptedBlocks)).takeDraw.completedWith .ok) := by
  have hlen : ¬ encLengthBad s.bufBytes s.ilen.toNat = true := by
    rw [encLengthBad_iff]
    omega
  rw [exec, execCbcenc, s.keyError_true hrkv, afterCheck_none, if_neg hlen, State.finish_ok,
    State.complete_eq_completedWith, cbcEnc_eq_ofBlocks]
  rfl

theorem exec_cbcenc_of_length (hlen : s.bufBytes < s.ilen.toNat ∨ s.bufBytes < 16 * (s.ilen.toNat / 16 + 2)) :
    exec .cbcenc s = .next (s.completedWith .length) := by
  rw [exec, execCbcenc, s.keyError_true hrkv, afterCheck_none, if_pos ((encLengthBad_iff _ _).2 hlen), State.finish_error_eq]

theorem exec_cbcdec_of_length (hlen : s.ilen.toNat % 16 ≠ 0 ∨ s.ilen.toNat < 32 ∨ s.bufBytes < s.ilen.toNat) :
    exec .cbcdec s = .next (s.completedWith .length) := by
  rw [exec, execCbcdec, s.keyError_true hrkv, afterCheck_none, if_pos ((decLengthBad_iff _ _).2 hlen), State.finish_error_eq]

/-- CBCDEC on a whole number of blocks writes what `unpad` leaves of the decrypted text (R251). -/
theorem exec_cbcdec {out : List Byte} {valid : Bool} (hblocks : s.ilen.toNat % 16 = 0) (hlow : 32 ≤ s.ilen.toNat)
    (hfits : s.ilen.toNat ≤ s.bufBytes)
    (hunpad : unpad (cbcDec s.rk (s.readBytes 0x4000 s.ilen.toNat)) = (out, valid)) :
    exec .cbcdec s =
      .next { s.writeOutput out with status := { s.status.completed .ok with padv := valid } } := by
  have hlen : ¬ decLengthBad s.bufBytes s.ilen.toNat = true := by
    rw [decLengthBad_iff]
    omega
  rw [exec, execCbcdec, s.keyError_true hrkv, afterCheck_none, if_neg hlen, ibufBase, hunpad, State.finish_ok,
    State.complete_eq_completedWith]
  rfl

end

/-- Settles O14: with RKV set, the length check is the next one to fail. -/
theorem lengthErrors : Obligations.LengthErrors :=
  fun _ hrkv => ⟨exec_cbcenc_of_length hrkv, exec_cbcdec_of_length hrkv⟩

/-- Settles O43: the output is the chain's blocks, and each block of the chain comes from the one before it. -/
theorem cbcencWritesIvAndChain : Obligations.CbcencWritesIvAndChain := by
  intro s hrkv hfits hout len padded
  have houtput : (ofBlocks s.encryptedBlocks).length = 16 * (len / 16 + 2) := by
    rw [ofBlocks_length, s.encryptedBlocks_length]
  have hblock : ∀ j < len / 16 + 2,
      (s.writeOutput (ofBlocks s.encryptedBlocks)).blockAt (0x8000 + 16 * j) = s.encryptedBlocks.getD j 0 :=
    fun j hj => s.blockAt_writeOutput_ofBlocks _ (by rwa [s.encryptedBlocks_length])
  refine ⟨_, exec_cbcenc hrkv hfits hout, ?_, ?_⟩
  · rw [s.encrypt_frame, houtput]
  simp only [State.takeDraw_completedWith_blockAt, State.takeDraw_completedWith_byteAt]
  refine ⟨(hblock 0 (by omega)).trans s.encryptedBlocks_zero, fun j hj => ?_, fun x hx => ?_⟩
  · rw [hblock (j + 1) (by omega), hblock j (by omega)]
    exact s.encryptedBlocks_succ hj
  · exact s.byteAt_writeOutput_outside _ (by rwa [houtput])

/-- Settles O44: the output is the unpadded text, whose bytes are the decrypted payload's. -/
theorem cbcdecWritesMessage : Obligations.CbcdecWritesMessage := by
  intro s hrkv hblocks hlow hfits size text n stripped out
  have hlength : s.decryptedMessage.length = out := s.decryptedMessage_length hblocks
  refine ⟨_, exec_cbcdec hrkv hblocks hlow hfits (s.unpad_cbcDec_readBytes hblocks hlow), ?_, ?_⟩
  · rw [s.decrypt_frame, hlength]
    rfl
  rw [State.withStatus_byteAt]
  refine ⟨fun k hk => ?_, fun x hx => ?_⟩
  · rw [s.byteAt_writeOutput_inside _ (hlength ▸ hk)]
    exact s.decryptedMessage_getD hblocks hk
  · exact s.byteAt_writeOutput_outside _ (hlength ▸ hx)

end Sys2Proof.Machine
end

section
/-! PROOFS. NOP (spec/44_control.md R270): it finishes on the state as it is, so the completion is all that happens. -/

namespace Sys2Proof.Machine

/-- Settles O15: NOP's one step is the successful completion of the state it found. -/
theorem nopOnlyCompletes : Obligations.NopOnlyCompletes := by
  intro s
  rw [exec, execNop, State.finish_ok, State.complete_eq_completedWith]

end Sys2Proof.Machine
end

section
/-! PROOFS. Issue, the core's step and completion (spec/60_exceptions.md R303 to R309): each command ends in one commit, an
error's commit writes STATUS alone, and a write to CMD is an issue or a dropped write. -/

namespace Sys2Proof.Machine

/-! ### Completion -/

/-- Settles O6, by the two ends of the command's one commit: either way the completion fields are the commit's, and what no
command writes is as it was. -/
theorem everyCommandCompletes : Obligations.EveryCommandCompletes := by
  intro i s
  obtain ⟨result, hexec, hframe⟩ := exec_commits i s
  cases result with
  | error code =>
    exact ⟨s.complete code, hexec, rfl, rfl, code.ne_ok_eq_toBits, rfl, rfl, rfl, rfl, rfl, rfl⟩
  | ok u =>
    obtain ⟨-, -, -, -, hlatch, hctrl, hbusyerr, hparams, hturns, hresponse, -⟩ := hframe u rfl
    exact ⟨u.complete .ok, hexec, rfl, rfl, rfl, hbusyerr, hctrl, hlatch, hturns, hparams, hresponse⟩

/-- Settles O7: a command whose writes stand completes with the code `ok`, so this one's commit is that of an error. -/
theorem failedCommandWritesNothingElse : Obligations.FailedCommandWritesNothingElse := by
  intro i s t hexec hfailed
  obtain ⟨code, rfl⟩ | ⟨u, -, rfl⟩ := exec_cases hexec
  · exact s.complete_eq_completedWith code
  · exact absurd (u.status.complete_errcode .ok) hfailed

/-! ### The core's step -/

theorem coreStep_of_command {s : State} {i : Instr} (hbusy : s.status.busy = true) (hlegal : decode s.latch = .ok i) :
    coreStep s = exec i s := by
  obtain ⟨hidle, -⟩ | ⟨-, j, hj, hstep⟩ | ⟨-, reason, hillegal, -⟩ := coreStep_cases s
  · cases hbusy.symm.trans hidle
  · cases hlegal.symm.trans hj
    exact hstep
  · cases hlegal.symm.trans hillegal

/-- With no event left the core's step comes next (assumption log 3). -/
theorem step_of_no_turns {s : State} (hdrained : s.turns = []) : step s = coreStep s := by
  obtain ⟨-, hstep⟩ | ⟨later, hturns, -⟩ | ⟨action, later, hturns, -⟩ := step_cases s
  · exact hstep
  all_goals cases hdrained.symm.trans hturns

/-- Settles O4. -/
theorem stepRunsTheDecodedCommand : Obligations.StepRunsTheDecodedCommand := fun s _ hbusy hlegal =>
  ⟨(step_facing_core s).trans (coreStep_of_command hbusy hlegal),
    fun hdrained => (step_of_no_turns hdrained).trans (coreStep_of_command hbusy hlegal)⟩

theorem coreStep_answers_next (s : State) : ∃ t, coreStep s = .next t := by
  obtain ⟨-, idle⟩ | ⟨-, i, -, runs⟩ | ⟨-, _, -, illegal⟩ := coreStep_cases s
  · exact ⟨s, idle⟩
  · obtain ⟨t, hexec, -⟩ := everyCommandCompletes i s
    exact ⟨t, runs.trans hexec⟩
  · exact ⟨s.complete .illegal, illegal⟩

/-- Settles O8, by the cases of a step: the core's step answers, and a host's action always leaves a state. -/
theorem everyStepAnswersNext : Obligations.EveryStepAnswersNext := by
  intro s
  obtain ⟨-, drained⟩ | ⟨later, -, completes⟩ | ⟨action, later, -, acts⟩ := step_cases s
  · exact drained ▸ coreStep_answers_next s
  · exact completes ▸ coreStep_answers_next { s with turns := later }
  · exact ⟨{ s with turns := later }.hostAct action, acts⟩

/-! ### Writes to CMD -/

/-- Settles O5: 0x00C is mapped to CMD, which the busy rule does not except. -/
theorem commandWriteIssuesOrIsDropped : Obligations.CommandWriteIssuesOrIsDropped := fun _ w =>
  ⟨fun hidle => step_facingWrite_idle (loc := .cmd) w hidle rfl rfl,
    fun hbusy => step_facingWrite_busy (loc := .cmd) w hbusy rfl rfl (by decide)⟩

/-- Settles O10: before the completion BUSY is 1 and the write leaves the pending command as it was; after it BUSY is 0 and
the write issues. -/
theorem completionAndCommandWriteInEitherOrder : Obligations.CompletionAndCommandWriteInEitherOrder := by
  intro s t i w hbusy hlegal hexec
  obtain ⟨t', hcompletes, hidle, -, -, hbusyerr, -⟩ := everyCommandCompletes i s
  cases hexec.symm.trans hcompletes
  obtain ⟨-, hdropped⟩ := commandWriteIssuesOrIsDropped s w
  obtain ⟨hissued, -⟩ := commandWriteIssuesOrIsDropped t w
  constructor
  · exact ⟨_, hdropped hbusy, rfl, rfl, hbusy, hlegal, (step_facing_core _).trans (coreStep_of_command hbusy hlegal)⟩
  · exact ⟨_, hissued hidle, rfl, rfl, hbusyerr⟩

end Sys2Proof.Machine
end

section
/-! PROOFS. Reset (spec/70_reset_and_hazards.md R340): the host's action leaves `State.hardReset`, whose registers, STATUS and
buffer bytes have the values of spec/10_state.md R40. -/

namespace Sys2Proof.Machine

theorem Status.toWord_reset : Status.reset.toWord = 0 := by decide

section
variable (s : State)

@[simp] theorem State.hardReset_r (i : RIdx) : s.hardReset.r[i] = 0 := Vector.getElem_replicate _

@[simp] theorem State.hardReset_q (j : QIdx) : s.hardReset.q[j] = PointReg.reset := Vector.getElem_replicate _

@[simp] theorem State.hardReset_rk (i : Fin 11) : s.hardReset.rk[i] = 0 := Vector.getElem_replicate _

@[simp] theorem State.hardReset_status : s.hardReset.status = Status.reset := rfl

/-- No byte is written since this reset, so each reads as its new draw (assumption log 2). -/
@[simp] theorem State.byteAt_hardReset (x : Nat) : s.hardReset.byteAt x = Config.resetByte (s.resetCount + 1) x := rfl

end

/-- Settles O57: the reset that comes next leaves `State.hardReset`; the single registers are fields it sets to 0, the
register files, STATUS and the buffers have the lemmas above. -/
theorem resetPutsTheTable : Obligations.ResetPutsTheTable := by
  intro s
  refine ⟨s.hardReset, step_facing_host s .reset, ?_⟩
  have hstatus : s.hardReset.status.toWord = 0 := s.hardReset_status ▸ Status.toWord_reset
  exact ⟨rfl, rfl, rfl, s.hardReset_r, s.hardReset_q, rfl, rfl, rfl, s.hardReset_rk, rfl, rfl, rfl, rfl, hstatus,
    s.irq_hardReset, s.byteAt_hardReset, s.hardReset_params, rfl⟩

end Sys2Proof.Machine
end

section
/-! SUPPORT. Decoding and encoding agree (spec/30_encoding.md R94 to R96): the fields of an encoded word, and the word encoded
again from the fields that its row uses. -/

namespace Sys2Proof

/-! ### Operand indices -/

/-- A class Q field in its range is its own index (R91). -/
theorem qIndex_val {f : BitVec 4} (h : f.toNat ≤ 3) : (qIndex f).val = f.toNat := by
  rw [qIndex, BitVec.val_toFin, BitVec.extractLsb'_toNat]
  omega

/-- A class R field in its range is its own index (R91). -/
theorem rIndex_val {f : BitVec 4} (h : f.toNat ≤ 7) : (rIndex f).val = f.toNat := by
  rw [rIndex, BitVec.val_toFin, BitVec.extractLsb'_toNat]
  omega

theorem qIndex_eq {f : BitVec 4} {j : QIdx} (h : f.toNat = j) : qIndex f = j :=
  Fin.ext ((qIndex_val (by omega)).trans h)

theorem rIndex_eq {f : BitVec 4} {j : RIdx} (h : f.toNat = j) : rIndex f = j :=
  Fin.ext ((rIndex_val (by omega)).trans h)

/-- NEG as a field of one bit (R90, R92). -/
theorem negField_eq_iff (w : Word) (neg : Bool) : negField w = neg ↔ (negBit w).toNat = neg.toNat := by
  have hbit : (negField w).toNat = (negBit w).toNat := by
    rw [negField, negBit_toNat, BitVec.getLsbD, Nat.toNat_testBit]
  rw [← hbit]
  cases negField w <;> cases neg <;> decide

/-! ### The fields of an encoded word -/

theorem Opcode.code_lt (op : Opcode) : op.code.toNat < 2 ^ 8 := by cases op <;> decide

theorem Opcode.opcField_code (op : Opcode) : (opcField op.code).toNat = op.code.toNat := by cases op <;> rfl

section
variable (op : Opcode) (d a b : Nat) (neg : Bool) (r : Nat) (hd : d < 16 := by omega) (ha : a < 16 := by omega)
  (hb : b < 16 := by omega) (hr : r < 16 := by omega)
include hd ha hb hr

/-- The sum of R95 has no carry into another field and none out of the word. -/
theorem encodeFields_toNat : (encodeFields op d a b neg r).toNat =
    op.code.toNat + d * 2 ^ 8 + a * 2 ^ 12 + b * 2 ^ 16 + neg.toNat * 2 ^ 20 + r * 2 ^ 24 := by
  have hop := op.code_lt
  have hneg := neg.toNat_lt
  rw [encodeFields, BitVec.toNat_ofNat, Nat.mod_eq_of_lt (by omega)]

theorem fields_encodeFields :
    (fdField (encodeFields op d a b neg r)).toNat = d ∧ (faField (encodeFields op d a b neg r)).toNat = a ∧
      (fbField (encodeFields op d a b neg r)).toNat = b ∧ negField (encodeFields op d a b neg r) = neg ∧
      (rndField (encodeFields op d a b neg r)).toNat = r := by
  have hop := op.code_lt
  have hneg := neg.toNat_lt
  rw [negField_eq_iff, fdField_toNat, faField_toNat, fbField_toNat, negBit_toNat, rndField_toNat,
    encodeFields_toNat op d a b neg r hd ha hb hr]
  omega

end

/-- A word is encoded again from its fields, if its reserved bits are 0 (R90, R95). -/
theorem encodeFields_of_fields {op : Opcode} {w : Word} {d a b r : Nat} {neg : Bool}
    (hrow : opcField w = opcField op.code) (hlow : (reservedLow w).toNat = 0) (hhigh : (reservedHigh w).toNat = 0)
    (hd : d = (fdField w).toNat) (ha : a = (faField w).toNat) (hb : b = (fbField w).toNat)
    (hneg : neg.toNat = (negBit w).toNat) (hr : r = (rndField w).toNat) : encodeFields op d a b neg r = w := by
  have hop : op.code.toNat = w.toNat % 256 := by rw [← op.opcField_code, ← hrow, opcField_toNat]
  apply BitVec.eq_of_toNat_eq
  rw [fdField_toNat] at hd
  rw [faField_toNat] at ha
  rw [fbField_toNat] at hb
  rw [negBit_toNat] at hneg
  rw [rndField_toNat] at hr
  rw [reservedLow_toNat] at hlow
  rw [reservedHigh_toNat] at hhigh
  rw [encodeFields_toNat op d a b neg r]
  omega

/-! ### Decoding an encoded command -/

/-- The word of every command lies in its row (R96). -/
theorem encode_row (i : Instr) : encode i &&& i.opcode.mask = i.opcode.code := by
  cases i with
  | nop => exact Laws.EncodesItsRow.nop
  | ecadd d a b => exact Laws.EncodesItsRow.ecadd d a b
  | ecdbl d a => exact Laws.EncodesItsRow.ecdbl d a
  | ecmul d a b neg => exact Laws.EncodesItsRow.ecmul d a b neg
  | ecchk a => exact Laws.EncodesItsRow.ecchk a
  | ecdisc => exact Laws.EncodesItsRow.ecdisc
  | modinv d a => exact Laws.EncodesItsRow.modinv d a
  | modsqrt d a => exact Laws.EncodesItsRow.modsqrt d a
  | aeskeyx a => exact Laws.EncodesItsRow.aeskeyx a
  | keyexp => exact Laws.EncodesItsRow.keyexp
  | aesenc => exact Laws.EncodesItsRow.aesenc
  | aesdec => exact Laws.EncodesItsRow.aesdec
  | subbytes => exact Laws.EncodesItsRow.subbytes
  | invsubbytes => exact Laws.EncodesItsRow.invsubbytes
  | shiftrows => exact Laws.EncodesItsRow.shiftrows
  | invshiftrows => exact Laws.EncodesItsRow.invshiftrows
  | mixcolumns => exact Laws.EncodesItsRow.mixcolumns
  | invmixcolumns => exact Laws.EncodesItsRow.invmixcolumns
  | addrk rnd => exact Laws.EncodesItsRow.addrk rnd
  | cbcenc => exact Laws.EncodesItsRow.cbcenc
  | cbcdec => exact Laws.EncodesItsRow.cbcdec

/-- The operands of a command are read back from the fields of its word (R94, R95). -/
theorem command_encode (i : Instr) : i.opcode.command (encode i) = i := by
  cases i with
  | nop | ecdisc | keyexp | aesenc | aesdec | subbytes | invsubbytes | shiftrows | invshiftrows | mixcolumns | invmixcolumns
  | cbcenc | cbcdec => rfl
  | ecadd d a b =>
    obtain ⟨hd, ha, hb, -⟩ := fields_encodeFields .ecadd d a b false 0
    rw [Instr.opcode, Opcode.command, encode, qIndex_eq hd, qIndex_eq ha, qIndex_eq hb]
  | ecdbl d a =>
    obtain ⟨hd, ha, -⟩ := fields_encodeFields .ecdbl d a 0 false 0
    rw [Instr.opcode, Opcode.command, encode, qIndex_eq hd, qIndex_eq ha]
  | ecmul d a b neg =>
    obtain ⟨hd, ha, hb, hneg, -⟩ := fields_encodeFields .ecmul d a b neg 0
    rw [Instr.opcode, Opcode.command, encode, qIndex_eq hd, qIndex_eq ha, rIndex_eq hb, hneg]
  | ecchk a =>
    obtain ⟨-, ha, -⟩ := fields_encodeFields .ecchk 0 a 0 false 0
    rw [Instr.opcode, Opcode.command, encode, qIndex_eq ha]
  | modinv d a =>
    obtain ⟨hd, ha, -⟩ := fields_encodeFields .modinv d a 0 false 0
    rw [Instr.opcode, Opcode.command, encode, rIndex_eq hd, rIndex_eq ha]
  | modsqrt d a =>
    obtain ⟨hd, ha, -⟩ := fields_encodeFields .modsqrt d a 0 false 0
    rw [Instr.opcode, Opcode.command, encode, rIndex_eq hd, rIndex_eq ha]
  | aeskeyx a =>
    obtain ⟨-, ha, -⟩ := fields_encodeFields .aeskeyx 0 a 0 false 0
    rw [Instr.opcode, Opcode.command, encode, qIndex_eq ha]
  | addrk rnd =>
    obtain ⟨-, -, -, -, hrnd⟩ := fields_encodeFields .addrk 0 0 0 false rnd.toNat
    rw [Instr.opcode, Opcode.command, encode, BitVec.eq_of_toNat_eq hrnd]

theorem decode_encode {i : Instr} (hlegal : WellFormed i = true) : decode (encode i) = .ok i := by
  have hmask := encode_row i
  obtain ⟨hrow, -⟩ := (i.opcode.and_mask_eq_code_iff _).1 hmask
  rw [decode_eq_command hrow hmask, command_encode]
  intro haddrk
  cases i with
  | addrk rnd =>
    have hcommand := command_encode (.addrk rnd)
    injection hcommand with hrnd
    rw [hrnd]
    exact hlegal
  | _ => cases haddrk

/-! ### Encoding a decoded word -/

/-- A word of a row is the encoding of the row's command (R95, R96): the fields that the row does not use are 0 in it. -/
theorem encode_command {w : Word} {op : Opcode} (hmask : w &&& op.mask = op.code) : encode (op.command w) = w := by
  obtain ⟨hrow, hfd, hfa, hfb, hneg, hlow, hrnd, hhigh⟩ := (op.and_mask_eq_code_iff w).1 hmask
  cases op with
  | nop | ecdisc | keyexp | aesenc | aesdec | subbytes | invsubbytes | shiftrows | invshiftrows | mixcolumns | invmixcolumns
  | cbcenc | cbcdec =>
    exact encodeFields_of_fields hrow hlow hhigh (Nat.le_zero.1 hfd).symm (Nat.le_zero.1 hfa).symm
      (Nat.le_zero.1 hfb).symm (Nat.le_zero.1 hneg).symm (Nat.le_zero.1 hrnd).symm
  | ecadd =>
    exact encodeFields_of_fields hrow hlow hhigh (qIndex_val hfd) (qIndex_val hfa) (qIndex_val hfb)
      (Nat.le_zero.1 hneg).symm (Nat.le_zero.1 hrnd).symm
  | ecdbl =>
    exact encodeFields_of_fields hrow hlow hhigh (qIndex_val hfd) (qIndex_val hfa) (Nat.le_zero.1 hfb).symm
      (Nat.le_zero.1 hneg).symm (Nat.le_zero.1 hrnd).symm
  | ecmul =>
    exact encodeFields_of_fields hrow hlow hhigh (qIndex_val hfd) (qIndex_val hfa) (rIndex_val hfb)
      ((negField_eq_iff w _).1 rfl).symm (Nat.le_zero.1 hrnd).symm
  | ecchk | aeskeyx =>
    exact encodeFields_of_fields hrow hlow hhigh (Nat.le_zero.1 hfd).symm (qIndex_val hfa) (Nat.le_zero.1 hfb).symm
      (Nat.le_zero.1 hneg).symm (Nat.le_zero.1 hrnd).symm
  | modinv | modsqrt =>
    exact encodeFields_of_fields hrow hlow hhigh (rIndex_val hfd) (rIndex_val hfa) (Nat.le_zero.1 hfb).symm
      (Nat.le_zero.1 hneg).symm (Nat.le_zero.1 hrnd).symm
  | addrk =>
    exact encodeFields_of_fields hrow hlow hhigh (Nat.le_zero.1 hfd).symm (Nat.le_zero.1 hfa).symm
      (Nat.le_zero.1 hfb).symm (Nat.le_zero.1 hneg).symm rfl

/-- Everything a legal word can be (R94). -/
theorem decode_eq_ok {w : Word} {i : Instr} (h : decode w = .ok i) :
    ∃ op : Opcode, w &&& op.mask = op.code ∧ i = op.command w ∧ (op = .addrk → roundLegal (rndField w) = true) := by
  by_cases hassigned : ∃ op : Opcode, opcField w = opcField op.code
  case neg => cases (decode_of_no_row hassigned).symm.trans h
  obtain ⟨op, hrow⟩ := hassigned
  rw [decode_of_row hrow] at h
  split at h
  case isFalse => cases h
  next hmask =>
    split at h
    case isTrue => cases h
    next hround =>
      cases h
      exact ⟨op, hmask, rfl, fun haddrk => by simpa [haddrk] using hround⟩

/-- The round index is all that the type of a command leaves open (R93). -/
theorem wellFormed_command {w : Word} {op : Opcode} (hround : op = .addrk → roundLegal (rndField w) = true) :
    WellFormed (op.command w) = true := by
  cases op with
  | addrk => exact hround rfl
  | _ => rfl

/-- Settles O1: a legal word is the encoding of its row's command, and a legal command's word decodes to it. -/
theorem decodeAndEncodeAgree : Obligations.DecodeAndEncodeAgree := by
  intro w i
  constructor
  · intro h
    obtain ⟨op, hmask, rfl, hround⟩ := decode_eq_ok h
    exact ⟨wellFormed_command hround, encode_command hmask⟩
  · rintro ⟨hlegal, rfl⟩
    exact decode_encode hlegal

end Sys2Proof
end

section
/-! SUPPORT. A pending command ends (spec/60_exceptions.md R306), by induction on the events to come (assumption log 3). -/

namespace Sys2Proof.Machine

/-! ### The events to come -/

section
variable (s : State)

@[simp] theorem State.writeWord_turns (w : Word) (loc : Location) : (s.writeWord w loc).turns = s.turns := by
  cases loc <;> rfl

@[simp] theorem State.hostWrite_turns (w : Word) (loc : Location) : (s.hostWrite w loc).turns = s.turns := by
  rcases s.hostWrite_cases w loc with ⟨-, -, dropped⟩ | ⟨-, written⟩
  · rw [dropped]
  · rw [written, State.writeWord_turns]

/-- A host action takes no further event (spec/20_memory.md R76). -/
@[simp] theorem State.hostAct_turns (action : HostAction) : (s.hostAct action).turns = s.turns := by
  cases action with
  | read addr width => cases hr : s.route addr width <;> simp only [State.hostAct, hr]
  | write addr width w => cases hr : s.route addr width <;> simp only [State.hostAct, hr, State.hostWrite_turns]
  | reset => rfl

end

/-! ### The completion -/

/-- After the core's step nothing is pending (R306, R301). -/
theorem coreStep_idle (s : State) : ∃ t, coreStep s = .next t ∧ t.status.busy = false := by
  obtain ⟨hidle, passes⟩ | ⟨-, i, -, runs⟩ | ⟨-, _, -, illegal⟩ := coreStep_cases s
  · exact ⟨s, passes, hidle⟩
  · obtain ⟨t, hexec, hidle, -⟩ := everyCommandCompletes i s
    exact ⟨t, runs.trans hexec, hidle⟩
  · exact ⟨s.complete .illegal, illegal, rfl⟩

theorem run_succ {M : Host.Core} {s t : M.State} (h : M.step s = .next t) (n : Nat) : M.run (n + 1) s = M.run n t := by
  rw [Host.Core.run, h]

theorem run_one {M : Host.Core} {s t : M.State} (h : M.step s = .next t) : M.run 1 s = .next t := run_succ h 0

/-- Either the next step is the core's, and nothing is pending after it, or it is the host's and leaves one event less. -/
theorem step_idle_or_turn_taken (s : State) : ∃ t, step s = .next t ∧
    (t.status.busy = false ∨ s.turns.length = t.turns.length + 1) := by
  obtain ⟨-, drained⟩ | ⟨later, -, completes⟩ | ⟨action, later, hturns, acts⟩ := step_cases s
  · obtain ⟨t, hcore, hidle⟩ := coreStep_idle s
    exact ⟨t, drained.trans hcore, .inl hidle⟩
  · obtain ⟨t, hcore, hidle⟩ := coreStep_idle { s with turns := later }
    exact ⟨t, completes.trans hcore, .inl hidle⟩
  · exact ⟨_, acts, .inr (by rw [hturns, State.hostAct_turns, List.length_cons])⟩

/-- Settles O9, by induction on the number of events to come: a host action before the completion takes one of them. -/
theorem pendingCommandEnds : Obligations.PendingCommandEnds := by
  intro s _
  induction hcount : s.turns.length generalizing s with
  | zero =>
    obtain ⟨t, hstep, hidle | hturn⟩ := step_idle_or_turn_taken s
    · exact ⟨1, t, le_rfl, run_one hstep, hidle⟩
    · omega
  | succ k ih =>
    obtain ⟨t, hstep, hidle | hturn⟩ := step_idle_or_turn_taken s
    · exact ⟨1, t, by omega, run_one hstep, hidle⟩
    · cases hbusy : t.status.busy with
      | false => exact ⟨1, t, by omega, run_one hstep, hbusy⟩
      | true =>
        obtain ⟨n, u, hn, hrun, hidle⟩ := ih t hbusy (by omega)
        exact ⟨n + 1, u, by omega, (run_succ hstep n).trans hrun, hidle⟩

end Sys2Proof.Machine
end

section
/-! SUPPORT. The cipher as a sequence of its transforms' commands (spec/42_aes.md R200, R201, R231): commands that write STATE
one after the other leave what their composition leaves. -/

namespace Sys2Proof.Machine

/-! ### Running commands one by one -/

theorem runCommands_cons {i : Instr} {s t : State} (h : exec i s = .next t) (rest : List Instr) :
    runCommands (i :: rest) s = runCommands rest t := by
  rw [runCommands, h]

theorem runCommands_append {first : List Instr} {s t : State} (h : runCommands first s = .next t) (rest : List Instr) :
    runCommands (first ++ rest) s = runCommands rest t := by
  induction first generalizing s with
  | nil =>
    cases h
    rfl
  | cons i first ih =>
    obtain ⟨u, hexec, -⟩ := everyCommandCompletes i s
    rw [runCommands_cons hexec] at h
    rw [List.cons_append, runCommands_cons hexec, ih h]

/-- Rounds performed one after the other, each a write of STATE: what they write is the fold of what each writes. -/
theorem runCommands_flatMap {α : Type} {s : State} {commands : α → List Instr} {round : Block → α → Block}
    (hround : ∀ r v, runCommands (commands r) (s.withBlock v) = .next (s.withBlock (round v r)))
    (rounds : List α) (v : Block) :
    runCommands (rounds.flatMap commands) (s.withBlock v) = .next (s.withBlock (rounds.foldl round v)) := by
  induction rounds generalizing v with
  | nil => rfl
  | cons r rounds ih => rw [List.flatMap_cons, runCommands_append (hround r v), ih, List.foldl_cons]

/-! ### The rounds of the cipher -/

/-- The round index of ADDRK as its field holds it (spec/30_encoding.md R93). -/
def roundField (r : Fin 11) : BitVec 4 := BitVec.ofNat 4 r

/-- The state after two writes of STATE is that after the last one. -/
@[simp] theorem State.withBlock_withBlock (s : State) (u v : Block) : (s.withBlock u).withBlock v = s.withBlock v := rfl

theorem roundField_toNat (r : Fin 11) : (roundField r).toNat = r := Nat.mod_eq_of_lt (by omega)

/-- The commands of one of the rounds 1 to 9 (R200). -/
def encryptRound (r : Fin 11) : List Instr := [.subbytes, .shiftrows, .mixcolumns, .addrk (roundField r)]

/-- The commands of one of the rounds 9 to 1 of the inverse cipher (R201). -/
def decryptRound (r : Fin 11) : List Instr := [.invshiftrows, .invsubbytes, .addrk (roundField r), .invmixcolumns]

section
variable {s : State} (hrkv : s.status.rkv = true)
include hrkv

theorem exec_addrk_roundField (r : Fin 11) :
    exec (.addrk (roundField r)) s = .next (s.withBlock (addRoundKey s.block s.rk[r])) := by
  have hr := roundField_toNat r
  rw [exec_addrk (by omega) hrkv]
  simp only [hr, Fin.getElem_fin]

theorem exec_addrk_withBlock (r : Fin 11) (v : Block) :
    exec (.addrk (roundField r)) (s.withBlock v) = .next (s.withBlock (addRoundKey v s.rk[r])) :=
  exec_addrk_roundField (s := s.withBlock v) hrkv r

theorem runCommands_encryptRound (r : Fin 11) (v : Block) : runCommands (encryptRound r) (s.withBlock v) =
    .next (s.withBlock (addRoundKey (mixColumns (shiftRows (subBytes v))) s.rk[r])) := by
  simp only [encryptRound, runCommands, exec_subbytes, exec_shiftrows, exec_mixcolumns, exec_addrk_withBlock hrkv,
    State.withBlock_withBlock, State.withBlock_block]

theorem runCommands_lastRound (v : Block) :
    runCommands [.subbytes, .shiftrows, .addrk (roundField 10)] (s.withBlock v) =
      .next (s.withBlock (addRoundKey (shiftRows (subBytes v)) s.rk[10])) := by
  simp only [runCommands, exec_subbytes, exec_shiftrows, exec_addrk_withBlock hrkv, State.withBlock_withBlock,
    State.withBlock_block]
  rfl

theorem runCommands_decryptRound (r : Fin 11) (v : Block) : runCommands (decryptRound r) (s.withBlock v) =
    .next (s.withBlock (invMixColumns (addRoundKey (invSubBytes (invShiftRows v)) s.rk[r]))) := by
  simp only [decryptRound, runCommands, exec_invsubbytes, exec_invshiftrows, exec_invmixcolumns,
    exec_addrk_withBlock hrkv, State.withBlock_withBlock, State.withBlock_block]

theorem runCommands_lastInverseRound (v : Block) :
    runCommands [.invshiftrows, .invsubbytes, .addrk (roundField 0)] (s.withBlock v) =
      .next (s.withBlock (addRoundKey (invSubBytes (invShiftRows v)) s.rk[0])) := by
  simp only [runCommands, exec_invsubbytes, exec_invshiftrows, exec_addrk_withBlock hrkv, State.withBlock_withBlock,
    State.withBlock_block]
  rfl

end

/-- Settles O34: the first AddRoundKey, the rounds as a fold, and the last round without its column product. -/
theorem cipherIsItsTransforms : Obligations.CipherIsItsTransforms := by
  intro s hrkv
  rw [exec_aesenc hrkv, exec_aesdec hrkv]
  change
    runCommands (.addrk (roundField 0) :: (middleRounds.flatMap encryptRound ++
        [.subbytes, .shiftrows, .addrk (roundField 10)])) s = _ ∧
      runCommands (.addrk (roundField 10) :: (middleRounds.reverse.flatMap decryptRound ++
        [.invshiftrows, .invsubbytes, .addrk (roundField 0)])) s = _
  constructor
  · rw [runCommands_cons (exec_addrk_roundField hrkv 0),
      runCommands_append (runCommands_flatMap (runCommands_encryptRound hrkv) middleRounds _), runCommands_lastRound hrkv]
    rfl
  · rw [runCommands_cons (exec_addrk_roundField hrkv 10),
      runCommands_append (runCommands_flatMap (runCommands_decryptRound hrkv) middleRounds.reverse _),
      runCommands_lastInverseRound hrkv]
    rfl

end Sys2Proof.Machine
end

section
/-! SUPPORT. The round trip of CBC mode (spec/43_cbc.md R252): the copied output of CBCENC decrypts to the padded message, whose
padding `unpad` strips. -/

namespace Sys2Proof.Machine

/-! ### The padding of the padded message -/

section
variable (s : State)

/-- The padded length (R240). -/
def State.paddedSize : Nat := 16 * (s.ilen.toNat / 16 + 1)

theorem State.paddedSize_eq : s.paddedSize = s.ilen.toNat + (16 - s.ilen.toNat % 16) := by
  rw [State.paddedSize]
  omega

theorem State.paddedSize_blocks : s.paddedSize % 16 = 0 ∧ 16 ≤ s.paddedSize := by
  rw [State.paddedSize]
  omega

/-- The last bytes of a padded message are the length of its padding (R240). -/
theorem State.paddedByte_toNat {k : Nat} (hk : s.ilen.toNat ≤ k) :
    (s.paddedByte k).toNat = 16 - s.ilen.toNat % 16 := by
  rw [State.paddedByte, if_neg (by omega), BitVec.toNat_ofNat, Nat.mod_eq_of_lt (by omega)]

theorem State.paddedByte_of_lt {k : Nat} (hk : k < s.ilen.toNat) : s.paddedByte k = s.byteAt (0x4000 + k) := if_pos hk

theorem State.paddingValid_of_padded {text : Nat → Byte} (htext : ∀ k < s.paddedSize, text k = s.paddedByte k) :
    paddingValid text s.paddedSize = true ∧ unpaddedSize text s.paddedSize = s.ilen.toNat := by
  have hsize := s.paddedSize_eq
  have hlast : ∀ k < 16 - s.ilen.toNat % 16, (text (s.paddedSize - 1 - k)).toNat = 16 - s.ilen.toNat % 16 := by
    intro k hk
    rw [htext _ (by omega), s.paddedByte_toNat (by omega)]
  have hn := hlast 0 (by omega)
  rw [Nat.sub_zero] at hn
  have hvalid : paddingValid text s.paddedSize = true := by
    simp only [paddingValid, hn, decide_eq_true_eq]
    exact ⟨by omega, by omega, hlast⟩
  exact ⟨hvalid, by rw [unpaddedSize, if_pos hvalid, hn]; omega⟩

end

/-! ### The copied output -/

section
variable {s u : State}

/-- IBUF of `u` holds what CBCENC of `s` wrote, and RK is the same (R252). -/
structure State.HoldsCiphertext (u s : State) : Prop where
  roundKeys : u.rk = s.rk
  length : u.ilen.toNat = s.paddedSize + 16
  payload : ∀ j < s.ilen.toNat / 16 + 2, u.blockAt (0x4000 + 16 * j) = s.encryptedBlocks.getD j 0

/-- The decrypted payload is the padded message: the two ciphers are inverse, and so are the two XORs (R242, R243). -/
theorem State.HoldsCiphertext.decryptedByte (h : u.HoldsCiphertext s) {k : Nat} (hk : k < s.paddedSize) :
    u.decryptedByte k = s.paddedByte k := by
  have hj : k / 16 < s.ilen.toNat / 16 + 1 := by
    rw [State.paddedSize] at hk
    omega
  rw [State.decryptedByte, show 0x4010 + 16 * (k / 16) = 0x4000 + 16 * (k / 16 + 1) by omega,
    h.payload _ (by omega), h.payload _ (by omega), s.encryptedBlocks_succ hj, h.roundKeys, aesDec_aesEnc,
    BitVec.xor_assoc, BitVec.xor_self, BitVec.xor_zero, byteAt_mkBlock _ _ (by omega), Nat.div_add_mod]

/-- What CBCDEC makes of the payload: the message, with valid padding (R251, R252). -/
theorem State.HoldsCiphertext.message (h : u.HoldsCiphertext s) :
    paddingValid u.decryptedByte (u.ilen.toNat - 16) = true ∧ u.decryptedMessage.length = s.ilen.toNat ∧
      ∀ k < s.ilen.toNat, u.decryptedMessage.getD k 0 = s.byteAt (0x4000 + k) := by
  have hlength := h.length
  have hpadded := s.paddedSize_eq
  obtain ⟨hmod, -⟩ := s.paddedSize_blocks
  have hblocks : u.ilen.toNat % 16 = 0 := by omega
  have hsize : u.ilen.toNat - 16 = s.paddedSize := by omega
  obtain ⟨hvalid, hunpadded⟩ := s.paddingValid_of_padded fun k => h.decryptedByte
  rw [← hsize] at hvalid hunpadded
  refine ⟨hvalid, by rw [u.decryptedMessage_length hblocks, hunpadded], fun k hk => ?_⟩
  rw [u.decryptedMessage_getD hblocks (by rwa [hunpadded]), h.decryptedByte (by omega), s.paddedByte_of_lt hk]

end

/-! ### The two commands -/

section
variable {s t : State}

/-- A CBCENC that completes with the code 0 has passed its length check (R244). -/
theorem length_of_exec_cbcenc_ok (hrkv : s.status.rkv = true) (hexec : exec .cbcenc s = .next t)
    (hok : t.status.errcode = .ok) : s.ilen.toNat ≤ s.bufBytes ∧ s.paddedSize + 16 ≤ s.bufBytes := by
  by_cases hlen : s.bufBytes < s.ilen.toNat ∨ s.bufBytes < 16 * (s.ilen.toNat / 16 + 2)
  · cases (exec_cbcenc_of_length hrkv hlen).symm.trans hexec
    cases hok
  · rw [State.paddedSize]
    omega

/-- What CBCENC leaves for the host to copy: OLEN, and the bytes of the chain in OBUF (R250). -/
theorem output_of_exec_cbcenc_ok (hrkv : s.status.rkv = true) (hexec : exec .cbcenc s = .next t)
    (hok : t.status.errcode = .ok) : t.olen.toNat = s.paddedSize + 16 ∧
      ∀ j < s.ilen.toNat / 16 + 2, t.blockAt (0x8000 + 16 * j) = s.encryptedBlocks.getD j 0 := by
  obtain ⟨hfits, hout⟩ := length_of_exec_cbcenc_ok hrkv hexec hok
  obtain ⟨-, hbuf, -⟩ := s.bufBytes_range
  cases (exec_cbcenc hrkv hfits (by rwa [State.paddedSize, ← Nat.mul_succ] at hout)).symm.trans hexec
  constructor
  · have hlength : (ofBlocks s.encryptedBlocks).length = s.paddedSize + 16 := by
      rw [ofBlocks_length, s.encryptedBlocks_length, State.paddedSize]
      omega
    change (BitVec.ofNat 32 (ofBlocks s.encryptedBlocks).length).toNat = _
    rw [hlength, BitVec.toNat_ofNat, Nat.mod_eq_of_lt (by omega)]
  · intro j hj
    rw [State.takeDraw_completedWith_blockAt]
    exact s.blockAt_writeOutput_ofBlocks _ (by rwa [s.encryptedBlocks_length])

end

/-- Settles O45: the copied output is the ciphertext of the padded message, so CBCDEC finds its padding and strips it. -/
theorem cbcRoundTrip : Obligations.CbcRoundTrip := by
  intro s t u hrkv hexec hok hurkv hrk hparams hilen hcopy
  obtain ⟨-, hout⟩ := length_of_exec_cbcenc_ok hrkv hexec hok
  obtain ⟨holen, hblocks⟩ := output_of_exec_cbcenc_ok hrkv hexec hok
  have hholds : u.HoldsCiphertext s :=
    { roundKeys := hrk
      length := by rw [hilen, holen]
      payload := fun j hj => by
        rw [← hblocks j hj]
        refine mkBlock_congr fun k hk => ?_
        rw [Nat.add_assoc, Nat.add_assoc]
        refine hcopy _ ?_
        rw [holen, State.paddedSize]
        omega }
  have hsize := hholds.length
  obtain ⟨hvalid, hlength, hbytes⟩ := hholds.message
  obtain ⟨hmod, hpos⟩ := s.paddedSize_blocks
  have hwhole : u.ilen.toNat % 16 = 0 := by omega
  have hlow : 32 ≤ u.ilen.toNat := by omega
  have hfits : u.ilen.toNat ≤ u.bufBytes := by rwa [hsize, State.bufBytes, hparams]
  refine ⟨_, exec_cbcdec hurkv hwhole hlow hfits (u.unpad_cbcDec_readBytes hwhole hlow), rfl, ?_, hvalid, fun k hk => ?_⟩
  · change BitVec.ofNat 32 u.decryptedMessage.length = s.ilen
    rw [hlength, BitVec.ofNat_toNat, BitVec.setWidth_eq]
  · rw [State.withStatus_byteAt, u.byteAt_writeOutput_inside _ (by rwa [hlength]), hbytes k hk]

end Sys2Proof.Machine
end

section
/-! SUPPORT. Tonelli–Shanks for prime P (spec/40_modular.md R125 to R128): the Legendre symbol by Euler's criterion, and what
every pass of the loop keeps. -/

namespace Sys2Proof.Machine

/-! ### Residues as elements of the field of P elements -/

section
variable {P : Nat}

theorem mod_eq_iff_cast_eq {x n : Nat} (hn : n < P) : x % P = n ↔ (x : ZMod P) = n := by
  rw [ZMod.natCast_eq_natCast_iff, Nat.ModEq, Nat.mod_eq_of_lt hn]

theorem pow_mod_eq_one_iff (hP : 1 < P) (x k : Nat) : x ^ k % P = 1 ↔ (x : ZMod P) ^ k = 1 := by
  rw [mod_eq_iff_cast_eq hP, Nat.cast_pow, Nat.cast_one]

/-- The residue P - 1 is -1. -/
theorem cast_sub_one (hP : 1 ≤ P) : ((P - 1 : Nat) : ZMod P) = -1 := by
  rw [Nat.cast_sub hP, ZMod.natCast_self, Nat.cast_one, zero_sub]

theorem half_sub_one (hodd : P % 2 = 1) : (P - 1) / 2 = P / 2 := by omega

variable [Fact P.Prime]

/-- The Legendre symbol of a square is 1, by Euler's criterion (R125). -/
theorem legendre_of_square {n : Nat} (hodd : P % 2 = 1) (h0 : n ≠ 0) (hn : n < P) (hsquare : ∃ x, x * x % P = n) :
    n ^ ((P - 1) / 2) % P = 1 := by
  obtain ⟨x, hx⟩ := hsquare
  have hcast : (n : ZMod P) ≠ 0 := by
    rw [Ne, ← Nat.cast_zero, ← mod_eq_iff_cast_eq (by omega), Nat.mod_eq_of_lt hn]
    exact h0
  have hone : 1 < P := (Fact.out : P.Prime).one_lt
  rw [pow_mod_eq_one_iff hone, half_sub_one hodd, ← ZMod.euler_criterion P hcast]
  exact ⟨x, by rw [← Nat.cast_mul, ← hx, ZMod.natCast_mod]⟩

/-- There is a non-residue, and it is at least 2 (R126). -/
theorem exists_nonresidue (hodd : P % 2 = 1) : ∃ z, 2 ≤ z ∧ z < P ∧ z ^ ((P - 1) / 2) % P = P - 1 := by
  have hchar : ringChar (ZMod P) ≠ 2 := by
    rw [ZMod.ringChar_zmod_n]
    omega
  obtain ⟨z, hz⟩ := FiniteField.exists_nonsquare hchar
  have hz0 : z ≠ 0 := by
    rintro rfl
    exact hz (IsSquare.zero)
  have hval0 : z.val ≠ 0 := (ZMod.val_eq_zero z).not.2 hz0
  have hval1 : z.val ≠ 1 := by
    intro h
    rw [(ZMod.val_eq_one (Fact.out : P.Prime).one_lt z).1 h] at hz
    exact hz IsSquare.one
  refine ⟨z.val, by omega, z.val_lt, ?_⟩
  rw [mod_eq_iff_cast_eq (by have := z.val_lt; omega), cast_sub_one (by omega), Nat.cast_pow, ZMod.natCast_zmod_val,
    half_sub_one hodd]
  exact (ZMod.pow_div_two_eq_neg_one_or_one P hz0).resolve_left fun h => hz ((ZMod.euler_criterion P hz0).2 h)

/-- The `z` that R126 takes. -/
theorem exists_least_nonresidue (hodd : P % 2 = 1) : ∃ z, 2 ≤ z ∧ z < P ∧ z ^ ((P - 1) / 2) % P = P - 1 ∧
    ∀ y, 2 ≤ y → y < z → y ^ ((P - 1) / 2) % P ≠ P - 1 := by
  have hexists := exists_nonresidue hodd
  obtain ⟨hlow, hlt, hz⟩ := Nat.find_spec hexists
  exact ⟨Nat.find hexists, hlow, hlt, hz, fun y hy hyz hyes => Nat.find_min hexists hyz ⟨hy, hyz.trans hlt, hyes⟩⟩

end

/-! ### The fast path -/

/-- For P mod 4 = 3 the power of R126 is a root of every operand with Legendre symbol 1. -/
theorem fastRoot_square {P n : Nat} (h4 : P % 4 = 3) (hn : n < P) (hleg : n ^ ((P - 1) / 2) % P = 1) :
    (n ^ ((P + 1) / 4) % P) * (n ^ ((P + 1) / 4) % P) % P = n := by
  have hexp : (P + 1) / 4 + (P + 1) / 4 = (P - 1) / 2 + 1 := by omega
  rw [← Nat.mul_mod, ← pow_add, hexp, pow_succ, Nat.mul_mod, hleg, one_mul, Nat.mod_mod, Nat.mod_eq_of_lt hn]

/-! ### The loop -/

/-- What every pass of the loop keeps: `r^2 = t*n`, and `t` and `c` have the orders that `m` says (R126). -/
structure TonelliInvariant (P n : Nat) (v : TonelliVars) : Prop where
  pos : 1 ≤ v.m
  below : v.t < P
  root : (v.r : ZMod P) * v.r = v.t * n
  order : (v.t : ZMod P) ^ 2 ^ (v.m - 1) = 1
  generator : (v.c : ZMod P) ^ 2 ^ (v.m - 1) = -1

section
variable {P n : Nat} [Fact P.Prime] {u v : TonelliVars}

/-- While `t` is not 1 the loop finds an `i`: `m - 1` is one (R126). -/
theorem TonelliInvariant.finds_order (h : TonelliInvariant P n u) (ht : u.t ≠ 1) :
    ∃ i, 1 ≤ i ∧ i < u.m ∧ u.t ^ 2 ^ i % P = 1 := by
  have horder := (pow_mod_eq_one_iff (Fact.out : P.Prime).one_lt _ _).2 h.order
  have hm : u.m - 1 ≠ 0 := by
    intro hm
    rw [hm, pow_zero, pow_one, Nat.mod_eq_of_lt h.below] at horder
    exact ht horder
  have hpos := h.pos
  exact ⟨u.m - 1, by omega, by omega, horder⟩

/-- By the choice of `i` the power before the one that is 1 is not 1, so it is the other root of 1. -/
theorem TonelliInvariant.half_order (h : TonelliInvariant P n u) (ht : u.t ≠ 1) {i : Nat} (hi : 1 ≤ i)
    (horder : u.t ^ 2 ^ i % P = 1) (hleast : ∀ j, 1 ≤ j → j < i → u.t ^ 2 ^ j % P ≠ 1) :
    (u.t : ZMod P) ^ 2 ^ (i - 1) = -1 := by
  have hone : 1 < P := (Fact.out : P.Prime).one_lt
  have hsquare : (u.t : ZMod P) ^ 2 ^ (i - 1) * (u.t : ZMod P) ^ 2 ^ (i - 1) = 1 := by
    rw [← pow_add, ← mul_two, ← pow_succ, Nat.sub_add_cancel hi]
    exact (pow_mod_eq_one_iff hone _ _).1 horder
  refine (mul_self_eq_one_iff.1 hsquare).resolve_left fun h1 => ?_
  rw [← pow_mod_eq_one_iff hone] at h1
  obtain hi1 | hi1 := Nat.lt_or_ge 1 i
  · exact hleast (i - 1) (by omega) (by omega) h1
  · rw [Nat.sub_eq_zero_of_le hi1, pow_zero, pow_one, Nat.mod_eq_of_lt h.below] at h1
    exact ht h1

theorem TonelliPass.keeps (hpass : TonelliPass P u v) (h : TonelliInvariant P n u) : TonelliInvariant P n v := by
  obtain ⟨ht, i, b, hi, him, horder, hleast, rfl, rfl⟩ := hpass
  have hexponent : 2 ^ (u.m - i - 1) * (2 * 2 ^ (i - 1)) = 2 ^ (u.m - 1) := by
    rw [← pow_succ', ← pow_add]
    congr 1
    omega
  have hgenerator : ((u.c : ZMod P) ^ 2 ^ (u.m - i - 1) * (u.c : ZMod P) ^ 2 ^ (u.m - i - 1)) ^ 2 ^ (i - 1) = -1 := by
    rw [← h.generator, ← pow_two, ← pow_mul, ← pow_mul, hexponent]
  have hroot := h.root
  constructor <;> simp only [ZMod.natCast_mod, Nat.cast_mul, Nat.cast_pow]
  case pos => exact hi
  case below => exact Nat.mod_lt _ (Fact.out : P.Prime).pos
  case root => linear_combination (u.c : ZMod P) ^ 2 ^ (u.m - i - 1) * (u.c : ZMod P) ^ 2 ^ (u.m - i - 1) * hroot
  case order => rw [mul_pow, h.half_order ht hi horder hleast, hgenerator, neg_one_mul, neg_neg]
  case generator => exact hgenerator

theorem TonelliInvariant.of_run (hrun : Relation.ReflTransGen (TonelliPass P) u v) (h : TonelliInvariant P n u) :
    TonelliInvariant P n v := by
  induction hrun with
  | refl => exact h
  | tail _ hpass ih => exact hpass.keeps ih

/-- The variables the loop starts from, for an `n` with Legendre symbol 1 and a non-residue `z` (R126). -/
theorem TonelliInvariant.start {q e z : Nat} (hsplit : P - 1 = q * 2 ^ e) (hodd : q % 2 = 1) (he : 1 ≤ e)
    (hn : n ^ ((P - 1) / 2) % P = 1) (hz : z ^ ((P - 1) / 2) % P = P - 1) :
    TonelliInvariant P n { m := e, c := z ^ q % P, t := n ^ q % P, r := n ^ ((q + 1) / 2) % P } := by
  have hone : 1 < P := (Fact.out : P.Prime).one_lt
  have hhalf : q * 2 ^ (e - 1) = (P - 1) / 2 := by
    rw [hsplit, ← Nat.sub_add_cancel he, pow_succ, ← Nat.mul_assoc, Nat.mul_div_cancel _ Nat.two_pos,
      Nat.add_sub_cancel]
  constructor <;> simp only [ZMod.natCast_mod, Nat.cast_pow]
  case pos => exact he
  case below => exact Nat.mod_lt _ (by omega)
  case root =>
    rw [← pow_add, ← pow_succ]
    congr 1
    omega
  case order => rw [← pow_mul, hhalf, ← pow_mod_eq_one_iff hone, hn]
  case generator =>
    rw [← pow_mul, hhalf, ← Nat.cast_pow, ← cast_sub_one hone.le, ← mod_eq_iff_cast_eq (by omega), hz]

/-- With `t = 1` the candidate is a root. -/
theorem TonelliInvariant.square (h : TonelliInvariant P n u) (ht : u.t = 1) (hn : n < P) : u.r * u.r % P = n := by
  rw [mod_eq_iff_cast_eq hn, Nat.cast_mul, h.root, ht, Nat.cast_one, one_mul]

end

/-! ### The root -/

/-- The general path ends with a root: its loop cannot give up, as an order of `t` below `m` exists (R126). -/
theorem tsGeneral_of_square {P n : Nat} [Fact P.Prime] (hodd : P % 2 = 1) (hn : n < P)
    (hleg : n ^ ((P - 1) / 2) % P = 1) : ∃ r, tsGeneral n P = some r ∧ r * r % P = n := by
  have htwo : 2 ≤ P := (Fact.out : P.Prime).two_le
  obtain ⟨z, hlow, hlt, hz, hleast⟩ := exists_least_nonresidue hodd
  obtain ⟨hsplit, hq⟩ := oddPart_spec _ (P - 1) (by omega) Nat.lt_log2_self
  generalize (oddPart ((P - 1).log2 + 1) (P - 1)).1 = q at hsplit hq
  generalize (oddPart ((P - 1).log2 + 1) (P - 1)).2 = e at hsplit
  have he : 1 ≤ e := by
    refine Nat.one_le_iff_ne_zero.2 fun he => ?_
    rw [he, Nat.pow_zero] at hsplit
    omega
  obtain ⟨last, hrun, hend⟩ := tsLoop_runs P e e (z ^ q % P) (n ^ q % P) (n ^ ((q + 1) / 2) % P) he le_rfl
  have hlast := (TonelliInvariant.start hsplit hq he hleg hz).of_run hrun
  rw [tsGeneral_of_least_nonresidue (by omega) hsplit hq hlow hlt hz hleast]
  obtain ⟨ht, hroot⟩ | ⟨ht, hnone, -⟩ := hend
  · exact ⟨last.r, hroot, hlast.square ht hn⟩
  · obtain ⟨i, hi, him, horder⟩ := hlast.finds_order ht
    exact absurd horder (hnone i hi him)

/-- For a prime P and an operand that is a square no path ends without a root. -/
theorem tsqrt_of_square {P n : Nat} [Fact P.Prime] (hodd : P % 2 = 1) (hn : n < P) (hsquare : ∃ x, x * x % P = n) :
    ∃ r, tsqrt n P = some r := by
  by_cases h0 : n = 0
  · exact ⟨0, h0 ▸ tsqrt_zero P⟩
  have hleg := legendre_of_square hodd h0 hn hsquare
  by_cases h4 : P % 4 = 3
  · refine ⟨n ^ ((P + 1) / 4) % P, ?_⟩
    rw [tsqrt_fast h0 hleg h4, Option.filter_some, if_pos (decide_eq_true (fastRoot_square h4 hn hleg))]
  · obtain ⟨r, hgeneral, hroot⟩ := tsGeneral_of_square hodd hn hleg
    refine ⟨r, ?_⟩
    rw [tsqrt_general h0 hleg h4, hgeneral, Option.filter_some, if_pos (decide_eq_true hroot)]

/-- Settles O19: a root is found, and by the final check of R127 it squares to the operand. -/
theorem modsqrtFindsEveryRootForPrimes : Obligations.ModsqrtFindsEveryRootForPrimes := by
  intro s d a hP hprime ha hsquare
  have : Fact s.p.toNat.Prime := ⟨hprime⟩
  obtain ⟨root, hfound⟩ := tsqrt_of_square hP.2 ha hsquare
  obtain ⟨hlt, hroot⟩ := tsqrt_some hprime.one_lt ha hfound
  exact ⟨_, exec_modsqrt_of_root d hP ha hfound, by rwa [toNat_ofNat_of_lt_field s.p hlt]⟩

end Sys2Proof.Machine
end

section
/-! SUPPORT. The curve over the field of P elements, P prime (spec/41_ecc.md R151, R153, R158, R160): the point operations are the
formulas of Mathlib's Weierstrass curves, which stay on the curve. -/

namespace Sys2Proof.Machine

/-- The curve `y^2 = x^3 + A*x + B` over the integers mod P (R160). -/
def shortCurve (P A B : Nat) : WeierstrassCurve.Affine (ZMod P) := { a₁ := 0, a₂ := 0, a₃ := 0, a₄ := A, a₆ := B }

@[simp] theorem shortCurve_negY (P A B : Nat) (x y : ZMod P) : (shortCurve P A B).negY x y = -y := by
  simp [WeierstrassCurve.Affine.negY, shortCurve]

/-- A point on the curve, with coordinates below P (R158). -/
def Point.Good (P A B : Nat) (pt : Point) : Prop := pt.Below P ∧ onCurve P A B pt = true

/-! ### Values mod P as elements of the field -/

section
variable {P A B : Nat}

theorem onCurve_fin_iff (x y : Nat) : onCurve P A B (.fin x y) = true ↔ (shortCurve P A B).Equation x y := by
  rw [onCurve, beq_iff_eq, ← ZMod.natCast_eq_natCast_iff', WeierstrassCurve.Affine.equation_iff, shortCurve]
  push_cast
  refine iff_of_eq (congrArg₂ _ ?_ ?_) <;> ring

/-- A remainder mod P stands for its integer. -/
theorem cast_of_eq_emod {n : Nat} {u : Int} (h : (n : Int) = u % P) : (n : ZMod P) = u := by
  rw [← Int.cast_natCast, h, ZMod.intCast_mod]

theorem cast_eq_iff {u v : Nat} (hu : u < P) (hv : v < P) : (u : ZMod P) = v ↔ u = v := by
  rw [ZMod.natCast_eq_natCast_iff', Nat.mod_eq_of_lt hu, Nat.mod_eq_of_lt hv]

theorem cast_sub_mod {y : Nat} (hy : y ≤ P) : (((P - y) % P : Nat) : ZMod P) = -y := by
  rw [cast_of_eq_emod (sub_mod_cast hy), Int.cast_neg, Int.cast_natCast]

/-- Which y-coordinates `padd` takes for inverses (R151). -/
theorem cast_eq_neg_iff {y1 y2 : Nat} (h1 : y1 < P) (h2 : y2 < P) : (y1 : ZMod P) = -y2 ↔ y1 = (P - y2) % P := by
  rw [← cast_sub_mod h2.le, cast_eq_iff h1 (Nat.mod_lt _ (by omega))]

/-! ### The slopes and the coordinates -/

/-- A point computed from a slope has the coordinates of Mathlib's formulas (R151). -/
theorem onCurve_chordPoint_iff (hP : 0 < P) (lam x1 y1 x2 : Nat) :
    onCurve P A B (chordPoint P lam x1 y1 x2) = true ↔
      (shortCurve P A B).Equation ((shortCurve P A B).addX x1 x2 lam) ((shortCurve P A B).addY x1 x2 y1 lam) := by
  rw [chordPoint, onCurve_fin_iff, cast_of_eq_emod (intMod_cast _ P hP), cast_of_eq_emod (intMod_cast _ P hP)]
  push_cast
  rw [cast_of_eq_emod (intMod_cast _ P hP)]
  refine iff_of_eq (congrArg₂ _ ?_ ?_)
  · simp only [WeierstrassCurve.Affine.addX, shortCurve]
    ring
  · rw [WeierstrassCurve.Affine.addY, shortCurve_negY]
    simp only [WeierstrassCurve.Affine.negAddY, WeierstrassCurve.Affine.addX, shortCurve]
    push_cast
    ring

variable [Fact P.Prime]

/-- The Fermat power is the inverse, also of 0 (R124). -/
theorem pow_sub_two_eq_inv (h3 : 2 < P) (u : ZMod P) : u ^ (P - 2) = u⁻¹ := by
  obtain rfl | hu := eq_or_ne u 0
  · rw [zero_pow (by omega), inv_zero]
  · refine eq_inv_of_mul_eq_one_left ?_
    rw [← pow_succ, show P - 2 + 1 = P - 1 by omega, ZMod.pow_card_sub_one_eq_one hu]

theorem chordSlope_eq_slope (h3 : 2 < P) (y1 y2 : Nat) {x1 x2 : Nat} (hx : (x1 : ZMod P) ≠ x2) :
    (chordSlope P x1 y1 x2 y2 : ZMod P) = (shortCurve P A B).slope x1 x2 y1 y2 := by
  rw [cast_of_eq_emod (chordSlope_cast (by omega) x1 y1 x2 y2), WeierstrassCurve.Affine.slope_of_X_ne hx]
  push_cast
  rw [pow_sub_two_eq_inv h3, ← div_eq_mul_inv, ← neg_div_neg_eq, neg_sub, neg_sub]

theorem tangentSlope_eq_slope (h3 : 2 < P) (x : Nat) {y : Nat} (hy : (y : ZMod P) ≠ -y) :
    (tangentSlope P A x y : ZMod P) = (shortCurve P A B).slope x x y y := by
  rw [cast_of_eq_emod (tangentSlope_cast P A x y), WeierstrassCurve.Affine.slope_of_Y_ne rfl (by rwa [shortCurve_negY]),
    shortCurve_negY]
  push_cast
  rw [pow_sub_two_eq_inv h3, ← div_eq_mul_inv]
  simp only [shortCurve]
  congr 1 <;> ring

/-- The sum of two points that are not inverses, with the slope of Mathlib's formulas, lies on the curve. -/
theorem chordPoint_onCurve {lam x1 y1 x2 y2 : Nat} (h1 : onCurve P A B (.fin x1 y1) = true)
    (h2 : onCurve P A B (.fin x2 y2) = true) (hne : ¬ ((x1 : ZMod P) = x2 ∧ (y1 : ZMod P) = -y2))
    (hslope : (lam : ZMod P) = (shortCurve P A B).slope x1 x2 y1 y2) :
    onCurve P A B (chordPoint P lam x1 y1 x2) = true := by
  rw [onCurve_fin_iff] at h1 h2
  rw [onCurve_chordPoint_iff (Fact.out : P.Prime).pos, hslope]
  exact WeierstrassCurve.Affine.equation_add h1 h2 (by rwa [shortCurve_negY])

/-- Two points of the curve with one x-coordinate are equal or inverses (R152). -/
theorem eq_or_neg_of_same_x {x1 y1 x2 y2 : Nat} (h1 : onCurve P A B (.fin x1 y1) = true)
    (h2 : onCurve P A B (.fin x2 y2) = true) (hx : (x1 : ZMod P) = x2) : (y1 : ZMod P) = y2 ∨ (y1 : ZMod P) = -y2 := by
  rw [onCurve_fin_iff] at h1 h2
  have hy := WeierstrassCurve.Affine.Y_eq_of_X_eq h1 h2 hx
  rwa [shortCurve_negY] at hy

/-! ### The point operations -/

/-- The sum of two finite points, by the branches of `padd`: inverses, one point twice, and different x (R151). -/
theorem padd_fin_onCurve (h3 : 2 < P) {x1 y1 x2 y2 : Nat} (h1 : (Point.fin x1 y1).Good P A B)
    (h2 : (Point.fin x2 y2).Good P A B) : onCurve P A B (padd P A (.fin x1 y1) (.fin x2 y2)) = true := by
  obtain ⟨⟨hx1, hy1⟩, hon1⟩ := h1
  obtain ⟨⟨hx2, hy2⟩, hon2⟩ := h2
  by_cases hinverse : x1 = x2 ∧ y1 = (P - y2) % P
  · obtain ⟨rfl, hy⟩ := hinverse
    rw [padd_inverse P A x1 y1 y2 hy, onCurve]
  have hne : ¬ ((x1 : ZMod P) = x2 ∧ (y1 : ZMod P) = -y2) := by
    rwa [cast_eq_iff hx1 hx2, cast_eq_neg_iff hy1 hy2]
  by_cases hequal : x1 = x2 ∧ y1 = y2
  · obtain ⟨rfl, rfl⟩ := hequal
    have hself : y1 ≠ (P - y1) % P := fun h => hinverse ⟨rfl, h⟩
    have hy0 : y1 ≠ 0 := by
      rintro rfl
      exact hself (by rw [Nat.sub_zero, Nat.mod_self])
    rw [padd_double P A x1 y1 hself hy0]
    exact chordPoint_onCurve hon1 hon2 hne (tangentSlope_eq_slope h3 x1 fun h => hne ⟨rfl, h⟩)
  · have hx : (x1 : ZMod P) ≠ x2 := fun hx =>
      (eq_or_neg_of_same_x hon1 hon2 hx).elim
        (fun hy => hequal ⟨(cast_eq_iff hx1 hx2).1 hx, (cast_eq_iff hy1 hy2).1 hy⟩) (fun hy => hne ⟨hx, hy⟩)
    rw [padd_chord P A x1 y1 x2 y2 hinverse hequal]
    exact chordPoint_onCurve hon1 hon2 hne (chordSlope_eq_slope h3 y1 y2 hx)

theorem padd_good (h3 : 2 < P) {p1 p2 : Point} (h1 : p1.Good P A B) (h2 : p2.Good P A B) :
    (padd P A p1 p2).Good P A B := by
  cases p1 with
  | inf => rwa [padd_inf_left]
  | fin x1 y1 =>
    cases p2 with
    | inf => rwa [padd_inf_right]
    | fin x2 y2 => exact ⟨padd_below P A _ _ (by omega) h1.1 h2.1, padd_fin_onCurve h3 h1 h2⟩

end

section
variable {P A B : Nat}

theorem inf_good : Point.inf.Good P A B := ⟨trivial, rfl⟩

theorem pneg_good (h0 : 0 < P) {pt : Point} (h : pt.Good P A B) : (pneg P pt).Good P A B := by
  refine ⟨pneg_below P pt h0 h.1, ?_⟩
  cases pt with
  | inf => rfl
  | fin x y =>
    obtain ⟨⟨-, hy⟩, hon⟩ := h
    rw [onCurve_fin_iff] at hon
    rw [pneg, onCurve_fin_iff, cast_sub_mod hy.le, ← shortCurve_negY P A B x, WeierstrassCurve.Affine.equation_neg]
    exact hon

theorem pmulLoop_good [Fact P.Prime] (h3 : 2 < P) (n k : Nat) {result addend : Point} (h1 : result.Good P A B)
    (h2 : addend.Good P A B) : (pmulLoop P A n k result addend).Good P A B := by
  induction n generalizing k result addend with
  | zero => exact h1
  | succ n ih =>
    refine ih _ ?_ (padd_good h3 h2 h2)
    split
    · exact padd_good h3 h1 h2
    · exact h1

theorem pmul_good [Fact P.Prime] (h3 : 2 < P) (k : Nat) (neg : Bool) {pt : Point} (h : pt.Good P A B) :
    (pmul P A k neg pt).Good P A B := by
  rw [pmul_eq_pmulLoop (lt_two_pow_bitlen k)]
  refine pmulLoop_good h3 _ _ inf_good ?_
  rw [pmulStart]
  split
  · exact pneg_good (by omega) h
  · exact h

/-! ### Points in registers -/

theorem PointReg.good_iff (pr : PointReg) : pr.toPoint.Good P A B ↔ pr.inf = true ∨
    (pr.x.toNat < P ∧ pr.y.toNat < P ∧
      (pr.y.toNat : Int) ^ 2 ≡ (pr.x.toNat : Int) ^ 3 + A * pr.x.toNat + B [ZMOD P]) := by
  rw [Point.Good, onCurve_toPoint_iff]
  obtain ⟨hinf, hpoint⟩ | ⟨hfin, hpoint⟩ := pr.toPoint_cases
  · simp [hpoint, hinf, Point.Below]
  · simp [hpoint, hfin, Point.Below, and_assoc]

end

section
variable {s : State} {d j : QIdx} {A B : Nat}

theorem pointOk_of_good (h : s.q[j].toPoint.Good s.p.toNat A B) : s.PointOk j := by
  intro hfin
  obtain ⟨hbelow, -⟩ := h
  rw [PointReg.toPoint_fin hfin] at hbelow
  exact hbelow

/-- A good point that a command writes is a good point in the register. -/
theorem withPoint_good {pt : Point} (h : pt.Good s.p.toNat A B) :
    ((s.withPoint d pt.toReg).q[d]).toPoint.Good s.p.toNat A B := by
  have hreg : (s.withPoint d pt.toReg).q[d] = pt.toReg := Vector.getElem_set_self _
  rwa [hreg, Point.toPoint_toReg pt s.p.toNat s.p.isLt.le h.1]

end

/-- Settles O27: addition and the double-and-add loop keep points on the curve, and so does the negation of NEG. -/
theorem pointCommandsStayOnTheCurve : Obligations.PointCommandsStayOnTheCurve := by
  intro s d a hP hprime hA hB good hgood
  have : Fact s.p.toNat.Prime := ⟨hprime⟩
  have ha := (PointReg.good_iff s.q[a]).2 hgood
  refine ⟨fun b hb => ?_, fun b neg => ?_⟩
  · have hb := (PointReg.good_iff s.q[b]).2 hb
    exact ⟨_, exec_ecadd d hP hA (pointOk_of_good ha) (pointOk_of_good hb), rfl,
      (PointReg.good_iff _).1 (withPoint_good (padd_good hP.1 ha hb))⟩
  · exact ⟨_, exec_ecmul d b neg hP hA (pointOk_of_good ha), rfl,
      (PointReg.good_iff _).1 (withPoint_good (pmul_good hP.1 _ neg ha))⟩

end Sys2Proof.Machine
end
